-- ==== Sys2Proof/Word.lean ====
section
/-! DEFINITION. The word types of the block (spec 00_scope.md R7, R13, R15; 20_memory.md R57). Every value is unsigned. -/

namespace Sys2Proof

/-- A byte is 8 bits (R15). -/
abbrev Byte := BitVec 8

/-- A word is 16 bits (R15): a register value, a point's address, a CRC. -/
abbrev Word := BitVec 16

/-- A time value has `P_TIME_W` = 32 bits, and its arithmetic is modulo 2^32 (R7). -/
abbrev Time := BitVec 32

/-- A log counter has `P_CNT_W` = 16 bits and wraps modulo 2^16 (R13). -/
abbrev Cnt := BitVec 16

/-- The value a read of the status port gives (R34). -/
abbrev StatusWord := BitVec 32

/-- A data-model status: 0 is success, a nonzero value is an exception code (R57). -/
abbrev Status := BitVec 2

end Sys2Proof
end

