-- ==== Sys2Proof/Config.lean ====
section
/-! DEFINITION. The implementation parameters of 00_scope.md section 3 (R5 to R13), as the configuration record the spec
asks for: fixed for the life of a block, and held in State.params so that every claim is over every value of them. -/

namespace Sys2Proof

/-- `P_CRC_WIRE_ORDER`: the order of the two CRC bytes on the wire (R11). -/
inductive CrcOrder where
  | lowFirst
  | highFirst
deriving DecidableEq, Repr

/-- The parameters of one block (R5, R6, R8 to R12). `P_TIME_W` and `P_CNT_W` are the widths of `Time` and `Cnt`. -/
structure Params where
  /-- `P_SLAVE_ADDR`, any value, none reserved (R5). -/
  slaveAddr : Byte
  /-- `P_T_SILENCE`, in the units of `now` (R6). -/
  tSilence : Time
  /-- `P_BUF_SIZE`, the capacity of the receive buffer (R8). -/
  bufSize : Nat
  /-- `P_MIN_FRAME_LEN`: a frame is parsed only when its length exceeds it (R9). -/
  minFrameLen : Nat
  /-- `P_FUNC_EN`, one enable bit per supported function code (R10). -/
  funcEn : BitVec 8
  /-- `P_CRC_WIRE_ORDER` (R11). -/
  crcWireOrder : CrcOrder
  /-- `P_TXBUF_SIZE`, the capacity of the transmit buffer (R12). -/
  txbufSize : Nat
deriving DecidableEq, Repr

/-- The legal values of the parameters: R9 and R8 state the first four bounds. The last is DEDUCED from R12 (the buffer
"never overflows" because the longest response is 255 bytes); log 9. -/
abbrev Params.legal (P : Params) : Prop :=
  3 ≤ P.minFrameLen ∧ P.minFrameLen < P.bufSize ∧ P.minFrameLen + 1 ≤ P.bufSize ∧ P.bufSize ≤ 65535 ∧ 255 ≤ P.txbufSize

/-- The parameters of this hardware (R8 to R12), with the two OPEN ones (R5, R6) as arguments. -/
def Params.hardware (slaveAddr : Byte) (tSilence : Time) : Params where
  slaveAddr := slaveAddr
  tSilence := tSilence
  bufSize := 256
  minFrameLen := 6
  funcEn := 0xFF#8
  crcWireOrder := .lowFirst
  txbufSize := 256

end Sys2Proof
end

