-- ==== Sys2Proof/Machine/Codes.lean ====
section
/-! DEFINITION. Byte order, the function codes with their enable bits, and the fixed constants of the block
(00_scope.md R14, R15; 20_memory.md R59; 41_pdu_dispatch.md R121). -/

namespace Sys2Proof.Machine

/-- `be16`: the big-endian word of two bytes, the first in the high-order position (R15, R59). -/
def be16 (hi lo : Byte) : Word := hi ++ lo

/-- Bits [15:8] of a word. -/
def hiByte (w : Word) : Byte := w.extractLsb' 8 8

/-- Bits [7:0] of a word. -/
def loByte (w : Word) : Byte := w.extractLsb' 0 8

/-- `Enabled(fc)`: one of the eight codes, with its bit of `CFG_FUNC_EN` set (R121, bit map of R10). -/
def enabled (funcEn : BitVec 8) (fc : Byte) : Bool :=
  (fc == 0x01#8 && funcEn.getLsbD 0) || (fc == 0x02#8 && funcEn.getLsbD 1) ||
  (fc == 0x03#8 && funcEn.getLsbD 2) || (fc == 0x04#8 && funcEn.getLsbD 3) ||
  (fc == 0x05#8 && funcEn.getLsbD 4) || (fc == 0x06#8 && funcEn.getLsbD 5) ||
  (fc == 0x0F#8 && funcEn.getLsbD 6) || (fc == 0x10#8 && funcEn.getLsbD 7)

/-- `ceil8(c) = (c + 7) div 8` (R15). -/
def ceil8 (c : Nat) : Nat := (c + 7) / 8

/-- The largest count of FC1 and FC2 (R14). -/
def maxReadBits : Nat := 2000

/-- The largest count of FC3 and FC4 (R14). -/
def maxReadRegs : Nat := 125

/-- The largest count of FC15 (R14). -/
def maxWriteCoils : Nat := 1968

/-- The largest count of FC16 (R14). -/
def maxWriteRegs : Nat := 123

/-- The FC5 value that sets a coil (R14, R160). -/
def coilOn : Word := 0xFF00#16

/-- The FC5 value that clears a coil (R14, R160). -/
def coilOff : Word := 0x0000#16

/-- The exception flag, ORed into the function code (R14, R128). -/
def excFlag : Byte := 0x80#8

/-- Exception code 1 (R14, R133). -/
def illegalFunctionCode : Byte := 1#8

/-- Exception code 2 (R14, R133). -/
def illegalAddressCode : Byte := 2#8

/-- Exception code 3 (R14, R133). -/
def illegalValueCode : Byte := 3#8

end Sys2Proof.Machine
end

