-- ==== Sys2Proof/Machine/Crc.lean ====
section
/-! DEFINITION. The CRC-16/Modbus generator as functions, the suffix on the wire and its check (40_crc.md R101 to R105). -/

namespace Sys2Proof.Machine

/-- The reflected polynomial (R14, R101). -/
def crcPoly : Word := 0xA001#16

/-- The CRC initial value (R14, R100, R102). -/
def crcInitValue : Word := 0xFFFF#16

/-- One of the eight iterations of R101: shift right, and xor the polynomial if the low bit was 1. -/
def crcShift (r : Word) : Word := if r.getLsbD 0 then (r >>> 1) ^^^ crcPoly else r >>> 1

/-- `CrcStep(r, b)`: xor the byte into the low byte, then eight iterations (R101). -/
def crcStep (r : Word) (b : Byte) : Word := Nat.repeat crcShift 8 (r ^^^ b.setWidth 16)

/-- `crc16(p)`: the fold of `CrcStep` over `p` from 0xFFFF (R102). -/
def crc16 (p : List Byte) : Word := p.foldl crcStep crcInitValue

/-- `CrcWire(r)`: the two-byte suffix in transmission order (R104). -/
def crcWire (order : CrcOrder) (r : Word) : List Byte :=
  match order with
  | .lowFirst => [loByte r, hiByte r]
  | .highFirst => [hiByte r, loByte r]

/-- `CrcOk(f)`: the last two bytes are the suffix of the bytes before them (R105). -/
def crcOk (order : CrcOrder) (f : List Byte) : Bool :=
  f.drop (f.length - 2) == crcWire order (crc16 (f.take (f.length - 2)))

end Sys2Proof.Machine
end

