-- ==== Sys2Proof/Machine/State.lean ====
section
/-! DEFINITION. The machine's state as plain data: the block's record (10_state.md R22), its parameters (00_scope.md R5 to
R13), the collaborators' state beside it (10_state.md R37), the environment's events and the trace of outputs (R40, R41),
and the reset state (R43). -/

namespace Sys2Proof.Machine

/-- The framer state `MODE` (R23). -/
inductive Mode where
  | receiving
  | transmitting
deriving DecidableEq, Repr

/-- The result of a transmission, the `st` of `E_TXDONE` (R40). -/
inductive TxStatus where
  | ok
  | error
deriving DecidableEq, Repr

/-- The events that drive the block (R40). Each is one atomic step. -/
inductive Event where
  /-- `E_BYTE(b, now)` (R181 to R183). -/
  | byte (b : Byte) (now : Time)
  /-- `E_RXERR()` (R198, R199). -/
  | rxErr
  /-- `E_POLL(now)` (R184, R185). -/
  | poll (now : Time)
  /-- `E_TXDONE(now, st)` (R196, R197). -/
  | txDone (now : Time) (st : TxStatus)
  /-- `E_CRC_INIT()` (R100). -/
  | crcInit
  /-- `E_CRC_BYTE(b)` (R101). -/
  | crcByte (b : Byte)
  /-- `E_RESET()` (R240). -/
  | reset
deriving DecidableEq, Repr

/-- The data-model spaces of single bits (R53). -/
inductive BitSpace where
  | coils
  | discreteInputs
deriving DecidableEq, Repr

/-- The data-model spaces of 16-bit words (R53). -/
inductive RegSpace where
  | holdingRegisters
  | inputRegisters
deriving DecidableEq, Repr

/-- A data-model request with its arguments (R54). -/
inductive DMRequest where
  | rdBits (space : BitSpace) (start : Word) (count : Nat)
  | rdRegs (space : RegSpace) (start : Word) (count : Nat)
  | wrCoil (addr : Word) (v : Bool)
  | wrReg (addr : Word) (v : Word)
deriving DecidableEq, Repr

/-- One answer of the data model that the environment has fixed in advance (log 2). Point `i` of a read's answer is entry
`i` of the list, and 0 beyond the list's end, so an answer has a value for every point (R55, log 14). -/
structure DMAnswer where
  st : Status
  bits : List Bool
  words : List Word
deriving DecidableEq, Repr

/-- One space of the stored data model: the configured range `[base, base + size)`, the values that are not 0 by rising
address, the addresses that deny a write, and the addresses whose value hook rejects a value above a limit (R58, log 16). -/
structure DMSpace (α : Type) where
  base : Nat
  size : Nat
  cells : List (Nat × α)
  readOnly : List Nat
  limits : List (Nat × Nat)
deriving DecidableEq, Repr

/-- The data model's state (R37, R53): the answers fixed for the next requests, and four stored spaces that answer when
none is left (log 2). Whether discrete inputs alias coils, and input registers holding registers, is the data model's choice
(R53). The block touches it only through the requests of R54. -/
structure DMState where
  script : List DMAnswer
  aliasBits : Bool
  aliasRegs : Bool
  coils : DMSpace Bool
  discreteInputs : DMSpace Bool
  holdingRegisters : DMSpace Word
  inputRegisters : DMSpace Word
deriving DecidableEq, Repr

/-- An output that an event emits (R41). -/
inductive Output where
  /-- A request to the data model, with its arguments (R54). -/
  | dmRequest (r : DMRequest)
  /-- `Transmit(q)`: the hand-off of a whole response to the transmitter (R195). -/
  | transmit (q : List Byte)
deriving DecidableEq, Repr

/-- The levels the block shows between events (R41): `DE`, `RX_EN`, the CRC unit's two outputs and the status port's
registers 0 to 9. -/
structure Levels where
  de : Bool
  rxEn : Bool
  crcOut : Word
  crcWire : List Byte
  status : List StatusWord
deriving DecidableEq, Repr

/-- What one event showed: the event, its outputs in order, and the levels after it (R41). -/
structure TraceEntry where
  event : Event
  outputs : List Output
  levels : Levels
deriving DecidableEq, Repr

/-- A byte memory: address and byte pairs by strictly rising address. An address that is not listed holds no value (log 4). -/
abbrev Memory := List Host.Cell

/-- The state of one block with its collaborators. -/
structure State where
  /-- `MODE` (R23). -/
  mode : Mode
  /-- `RX_BUF` (R24). -/
  rxBuf : Memory
  /-- `RX_LEN` (R25). -/
  rxLen : Nat
  /-- `LAST_RX_TIME` (R26). -/
  lastRxTime : Time
  /-- `LAST_TX_TIME` (R27). -/
  lastTxTime : Time
  /-- `DE` (R28). -/
  de : Bool
  /-- `TX_BUF` (R29). -/
  txBuf : Memory
  /-- `TX_LEN` (R29). -/
  txLen : Nat
  /-- `CRC_REG` (R30). -/
  crcReg : Word
  /-- `CRC_ERR_CNT` (R31). -/
  crcErrCnt : Cnt
  /-- `OVF_CNT` (R32). -/
  ovfCnt : Cnt
  /-- `CFG_SLAVE_ADDR` (R33). -/
  cfgSlaveAddr : Byte
  /-- `CFG_T_SILENCE` (R33). -/
  cfgTSilence : Time
  /-- `CFG_FUNC_EN` (R33). -/
  cfgFuncEn : BitVec 8
  /-- The parameters of this block (R5 to R12), fixed for its life. -/
  params : Params
  /-- `DMState`, the data model's state (R37). -/
  dm : DMState
  /-- The transmitter's hand-offs that are not completed, oldest first (R37, R41, log 8). -/
  txInFlight : List (List Byte)
  /-- The events the environment delivers next, oldest first (R40, R220, log 6). -/
  inputs : List Event
  /-- The outputs emitted so far by the event being processed (R41, log 7). -/
  out : List Output
  /-- The trace of the events processed so far, oldest first (R41, R251, log 7). -/
  trace : List TraceEntry
deriving DecidableEq, Repr

/-- Why the machine stops with a fault. Every fault is safe, and none can arise from a state with the invariant of
Sys2Proof/Safety.lean. -/
inductive Fault where
  /-- Raised by the frame end when a byte of `RX_BUF` below `RX_LEN` holds no value (R39 allows it). Safe. -/
  | rxByteAbsent (index : Nat)
  /-- Raised by the hand-off when a byte of `TX_BUF` below `TX_LEN` holds no value (R39 allows it). Safe. -/
  | txByteAbsent (index : Nat)
  /-- Raised by the byte event when `RX_LEN` is beyond `P_BUF_SIZE`: `RX_BUF` has no such index (R50). Safe. -/
  | rxBufIndex (index : Nat)
  /-- Raised by the response composer when the frame is longer than `P_TXBUF_SIZE`: `TX_BUF` has no such index (R50). Safe. -/
  | txBufIndex (length : Nat)
deriving DecidableEq, Repr

/-- Why the model gives no meaning. -/
inductive Refusal where
  /-- Raised by exec for an instruction that has no meaning yet. Safe. -/
  | notModelled (mnemonic : String)
  /-- Raised by the frame end when an accepted frame has no PDU byte, which only a `P_MIN_FRAME_LEN` below the legal range
  of R9 allows (log 13). Safe. -/
  | emptyPdu
deriving DecidableEq, Repr

/-- What a step or a meaning answers. -/
abbrev Outcome := Host.Outcome State Fault Refusal

/-- A space in which every 16-bit address exists, holds 0 and takes every write (log 3). -/
def DMSpace.whole (α : Type) : DMSpace α where
  base := 0
  size := 0x10000
  cells := []
  readOnly := []
  limits := []

/-- The data model that State.reset carries: four whole spaces of zeros, none aliased, and no answer fixed in
advance (log 3). -/
def DMState.initial : DMState where
  script := []
  aliasBits := false
  aliasRegs := false
  coils := .whole Bool
  discreteInputs := .whole Bool
  holdingRegisters := .whole Word
  inputRegisters := .whole Word

/-- The state after `E_RESET` of a block with parameters `P` beside a data model in state `d` (R43). The contents of the two
buffers are unspecified: every byte is absent (R39). -/
def State.resetWith (P : Params) (d : DMState) : State where
  mode := .receiving
  rxBuf := []
  rxLen := 0
  lastRxTime := 0#32
  lastTxTime := 0#32
  de := false
  txBuf := []
  txLen := 0
  crcReg := 0xFFFF#16
  crcErrCnt := 0#16
  ovfCnt := 0#16
  cfgSlaveAddr := P.slaveAddr
  cfgTSilence := P.tSilence
  cfgFuncEn := P.funcEn
  params := P
  dm := d
  txInFlight := []
  inputs := []
  out := []
  trace := []

/-- The machine right after reset: this hardware's parameters (R8 to R12), with the OPEN slave address and silence threshold
at the values of the spec's examples, 0x01 and 3 (95_test_vectors.md section 0; DESIGN CHOICE, log 1). -/
def State.reset : State := State.resetWith (Params.hardware 0x01#8 3#32) DMState.initial

end Sys2Proof.Machine
end

