-- ==== Sys2Proof/Machine/Flags.lean ====
section
/-! DEFINITION. The block has no condition flags (10_state.md R35). Its status bits, the derived outputs and the read-only
status port (10_state.md R34, R38; 40_crc.md R106). -/

namespace Sys2Proof.Machine

/-- The 1-bit encoding of `MODE` (R23): RECEIVING = 0, TRANSMITTING = 1. -/
def modeBit (m : Mode) : Bool :=
  match m with
  | .receiving => false
  | .transmitting => true

/-- `RX_EN = 1` if and only if `MODE = RECEIVING` (R38). -/
def rxEn (s : State) : Bool :=
  match s.mode with
  | .receiving => true
  | .transmitting => false

/-- A bit of a status word, at position `pos`. -/
def statusBit (b : Bool) (pos : Nat) : StatusWord := (BitVec.ofBool b).setWidth 32 <<< pos

/-- STATUS, index 0 of the status port: `MODE`, `DE` and `RX_EN` in bits 0, 1 and 2 (R34). -/
def statusReg (s : State) : StatusWord := statusBit (modeBit s.mode) 0 ||| statusBit s.de 1 ||| statusBit (rxEn s) 2

/-- `reg_read(idx)`: the status port; an index outside the table reads 0 (R34). -/
def regRead (s : State) (idx : Nat) : StatusWord :=
  match idx with
  | 0 => statusReg s
  | 1 => (BitVec.ofNat 16 s.rxLen).setWidth 32
  | 2 => s.crcErrCnt.setWidth 32
  | 3 => s.ovfCnt.setWidth 32
  | 4 => s.lastRxTime
  | 5 => s.lastTxTime
  | 6 => s.cfgSlaveAddr.setWidth 32
  | 7 => s.cfgTSilence
  | 8 => s.cfgFuncEn.setWidth 32
  | 9 => s.crcReg.setWidth 32
  | _ => 0#32

/-- `crc_out`, an output of the CRC unit (R106). -/
def crcOut (s : State) : Word := s.crcReg

/-- `crc_wire`, an output of the CRC unit: two bytes in transmission order (R106). -/
def crcWireOut (s : State) : List Byte := crcWire s.params.crcWireOrder s.crcReg

/-- Everything the block shows between events (R41). -/
def observe (s : State) : Levels where
  de := s.de
  rxEn := rxEn s
  crcOut := crcOut s
  crcWire := crcWireOut s
  status := (List.range 10).map (regRead s)

end Sys2Proof.Machine
end

