-- ==== Sys2Proof/Machine/Ops.lean ====
section
/-! DEFINITION. The named operations every meaning shares: sparse memories and the two buffers (20_memory.md R50 to R52), the
outputs (10_state.md R41), the response frames, TAKING AN EXCEPTION (41_pdu_dispatch.md R129; 60_exceptions.md R222) and
the start and the end of a transmission (44_rtu_framer.md R194 to R196; 60_exceptions.md R223). -/

namespace Sys2Proof.Machine

/-- Run `f` on the next state, and stop where `o` stops. -/
def andThen (o : Outcome) (f : State → Outcome) : Outcome :=
  match o with
  | .next s => f s
  | .fault r => .fault r
  | .refused r => .refused r

/-! ### Sparse memories -/

/-- `k` is above `lo`, where `lo` is given. -/
def Cells.above : Option Nat → Nat → Bool
  | none, _ => true
  | some l, k => decide (l < k)

/-- The keys of `m` rise strictly, and the first one is above `lo` where `lo` is given. -/
def Cells.rising {α : Type} : Option Nat → List (Nat × α) → Bool
  | _, [] => true
  | lo, (k, _) :: m => Cells.above lo k && Cells.rising (some k) m

/-- The value listed at `a`. -/
def Cells.get? {α : Type} : List (Nat × α) → Nat → Option α
  | [], _ => none
  | (k, v) :: m, a => if k = a then some v else Cells.get? m a

/-- List `v` at `a`, in place of what was listed there. -/
def Cells.put {α : Type} : List (Nat × α) → Nat → α → List (Nat × α)
  | [], a, v => [(a, v)]
  | (k, w) :: m, a, v =>
    if a < k then (a, v) :: (k, w) :: m
    else if a = k then (a, v) :: m
    else (k, w) :: Cells.put m a v

/-- List nothing at `a`. -/
def Cells.erase {α : Type} : List (Nat × α) → Nat → List (Nat × α)
  | [], _ => []
  | (k, w) :: m, a => if k = a then m else (k, w) :: Cells.erase m a

/-- The canonical form of a byte memory: strictly rising addresses. An unlisted address holds no value, so no entry can
equal what it reads as. -/
def Memory.wf (m : Memory) : Bool := Cells.rising none m

/-- The byte at an address, none where no value is held. -/
def Memory.read? (m : Memory) (a : Nat) : Option Byte := Cells.get? m a

/-- `m[a] <- b` (R16). -/
def Memory.write (m : Memory) (a : Nat) (b : Byte) : Memory := Cells.put m a b

/-- Write the bytes at `a`, `a + 1`, and so on. -/
def Memory.writeAll (m : Memory) (a : Nat) : List Byte → Memory
  | [] => m
  | b :: bs => Memory.writeAll (Memory.write m a b) (a + 1) bs

/-- The slice of `n` bytes from `a` on (R16), or the first address of it that holds no value. -/
def Memory.slice (m : Memory) (a : Nat) : Nat → Except Nat (List Byte)
  | 0 => .ok []
  | n + 1 =>
    match Memory.read? m a with
    | none => .error a
    | some b =>
      match Memory.slice m (a + 1) n with
      | .error e => .error e
      | .ok bs => .ok (b :: bs)

/-! ### Outputs -/

/-- Emit an output of the event being processed (R41). -/
def emit (o : Output) (s : State) : State := { s with out := s.out ++ [o] }

/-- Record data-model requests among the outputs, in the order they were issued (R41, R66), and the data model's state after
them. -/
def issued (rs : List DMRequest) (d : DMState) (s : State) : State :=
  { s with dm := d, out := s.out ++ rs.map .dmRequest }

/-! ### Response frames and transmission -/

/-- `TX_BUF[0..len) <- frame; TX_LEN <- len` (R129, R131). -/
def loadTx (frame : List Byte) (s : State) : Outcome :=
  if frame.length ≤ s.params.txbufSize then
    .next { s with txBuf := s.txBuf.writeAll 0 frame, txLen := frame.length }
  else .fault (.txBufIndex frame.length)

/-- The body with its CRC suffix (R104, R129, R131). -/
def framed (order : CrcOrder) (body : List Byte) : List Byte := body ++ crcWire order (crc16 body)

/-- `ExcPdu(p, c) = [p[0] or 0x80, c]` (R128). -/
def excPdu (fc code : Byte) : List Byte := [fc ||| excFlag, code]

/-- `ExcFrame(p, c)`: the exception-response encoder (R129). -/
def excFrame (fc code : Byte) (s : State) : Outcome :=
  loadTx (framed s.params.crcWireOrder (s.cfgSlaveAddr :: excPdu fc code)) s

/-- `OkFrame(resp)`: the success frame (R131). -/
def okFrame (resp : List Byte) (s : State) : Outcome :=
  loadTx (framed s.params.crcWireOrder (s.cfgSlaveAddr :: resp)) s

/-- `StartTx()` (R194): TRANSMITTING, `DE` asserted, and the whole response handed to the transmitter (R195). -/
def startTx (s : State) : Outcome :=
  match s.txBuf.slice 0 s.txLen with
  | .error i => .fault (.txByteAbsent i)
  | .ok q =>
    .next (emit (.transmit q)
      { s with mode := .transmitting, de := true, txInFlight := s.txInFlight ++ [q] })

/-- TAKING AN EXCEPTION (R222): the exception frame into `TX_BUF`, then the transmission. There is no vector, no saved pc
and no cause register: the code travels in the frame. -/
def takeException (fc code : Byte) (s : State) : Outcome := andThen (excFrame fc code s) startTx

/-- The answer to a success (R190): the success frame into `TX_BUF`, then the transmission. -/
def answer (resp : List Byte) (s : State) : Outcome := andThen (okFrame resp s) startTx

/-- The return to idle, from an exception as from a success (R196, R223): driver released, completion time recorded,
reception restarted with an empty buffer. -/
def endTx (now : Time) (s : State) : State :=
  { s with de := false, lastTxTime := now, mode := .receiving, rxLen := 0 }

/-- `Drop()`: the frame ends with no response (R191). -/
def dropFrame (s : State) : State := { s with rxLen := 0 }

end Sys2Proof.Machine
end

