-- ==== Sys2Proof/Machine/CrcUnit.lean ====
section
/-! DEFINITION. The standalone CRC generator's two events (40_crc.md R100, R101). Only they and the reset change CRC_REG
(10_state.md R30). -/

namespace Sys2Proof.Machine

/-- `E_CRC_INIT()` (R100). -/
def eventCrcInit (s : State) : State := { s with crcReg := crcInitValue }

/-- `E_CRC_BYTE(b)` (R101). -/
def eventCrcByte (b : Byte) (s : State) : State := { s with crcReg := crcStep s.crcReg b }

end Sys2Proof.Machine
end

