-- ==== Sys2Proof/Fields.lean ====
section
/-! DEFINITION. The operand fields of the three request formats (30_encoding.md R74, R75, R76). A PDU that is shorter than
the fixed part of its format keeps the bytes it has (R79, R124 answer it); bytes beyond the last one a function reads are
kept too, and no meaning reads them (R124). DESIGN CHOICE, log 10. -/

namespace Sys2Proof

/-- The bytes after the function code in format A (R74): the read request of FC1 to FC4. -/
inductive ReadArgs where
  /-- Fewer than four bytes follow the function code. -/
  | short (payload : List Byte)
  /-- `start = be16(p, 1)`, `count = be16(p, 3)`, then the ignored bytes from offset 5 on. -/
  | full (start count : Word) (rest : List Byte)
deriving DecidableEq, Repr

/-- The bytes after the function code in format B (R75): the write-single request of FC5 and FC6. -/
inductive WriteArgs where
  /-- Fewer than four bytes follow the function code. -/
  | short (payload : List Byte)
  /-- `addr = be16(p, 1)`, `value = be16(p, 3)`, then the ignored bytes from offset 5 on. -/
  | full (addr value : Word) (rest : List Byte)
deriving DecidableEq, Repr

/-- The bytes after the function code in format C (R76): the write-multiple request of FC15 and FC16. -/
inductive MultiArgs where
  /-- Fewer than five bytes follow the function code. -/
  | short (payload : List Byte)
  /-- `start = be16(p, 1)`, `count = be16(p, 3)`, `bc = p[5]`, and every byte from offset 6 on. -/
  | full (start count : Word) (bc : Byte) (data : List Byte)
deriving DecidableEq, Repr

end Sys2Proof
end

