-- ==== Sys2Proof/Syntax.lean ====
section
/-! DEFINITION. The instructions: the nine rows of spec/opcode_table.json (30_encoding.md R73), one constructor each. -/

namespace Sys2Proof

/-- A Modbus request as the dispatcher sees it: the row its function code selects, with the fields of its format. -/
inductive Instr where
  /-- FC1 = 0x01, format A (R140). -/
  | readCoils (a : ReadArgs)
  /-- FC2 = 0x02, format A (R141). -/
  | readDiscreteInputs (a : ReadArgs)
  /-- FC3 = 0x03, format A (R144). -/
  | readHoldingRegisters (a : ReadArgs)
  /-- FC4 = 0x04, format A (R145). -/
  | readInputRegisters (a : ReadArgs)
  /-- FC5 = 0x05, format B (R160). -/
  | writeSingleCoil (a : WriteArgs)
  /-- FC6 = 0x06, format B (R161). -/
  | writeSingleRegister (a : WriteArgs)
  /-- FC15 = 0x0F, format C (R162). -/
  | writeMultipleCoils (a : MultiArgs)
  /-- FC16 = 0x10, format C (R164). -/
  | writeMultipleRegisters (a : MultiArgs)
  /-- The default arm (R127): a function code that is unknown or disabled, and whatever bytes follow it. -/
  | illegalFunction (fc : Byte) (payload : List Byte)
deriving DecidableEq, Repr

end Sys2Proof
end

