-- ==== Sys2Proof/WellFormed.lean ====
section
/-! DEFINITION. Which terms of `Instr` stand for a PDU under an enable mask (30_encoding.md R73 to R76, R80): the function
code's row must be enabled, and a short form must be shorter than the fixed part of its format. -/

namespace Sys2Proof

open Sys2Proof.Machine

/-- A short format A request has fewer than 5 bytes, function code included (R74, R79). -/
def ReadArgs.wellFormed : ReadArgs → Bool
  | .short payload => payload.length < 4
  | .full _ _ _ => true

/-- A short format B request has fewer than 5 bytes, function code included (R75, R79). -/
def WriteArgs.wellFormed : WriteArgs → Bool
  | .short payload => payload.length < 4
  | .full _ _ _ => true

/-- A short format C request has fewer than 6 bytes, function code included (R76, R79). -/
def MultiArgs.wellFormed : MultiArgs → Bool
  | .short payload => payload.length < 5
  | .full _ _ _ _ => true

/-- `i` is what some PDU decodes to when the enable mask is `funcEn`. -/
def Instr.wellFormed (funcEn : BitVec 8) : Instr → Bool
  | .readCoils a => enabled funcEn 0x01#8 && a.wellFormed
  | .readDiscreteInputs a => enabled funcEn 0x02#8 && a.wellFormed
  | .readHoldingRegisters a => enabled funcEn 0x03#8 && a.wellFormed
  | .readInputRegisters a => enabled funcEn 0x04#8 && a.wellFormed
  | .writeSingleCoil a => enabled funcEn 0x05#8 && a.wellFormed
  | .writeSingleRegister a => enabled funcEn 0x06#8 && a.wellFormed
  | .writeMultipleCoils a => enabled funcEn 0x0F#8 && a.wellFormed
  | .writeMultipleRegisters a => enabled funcEn 0x10#8 && a.wellFormed
  | .illegalFunction fc _ => !enabled funcEn fc

end Sys2Proof
end

