-- ==== Sys2Proof/Decode.lean ====
section
/-! DEFINITION. The decoder: bytes of a PDU to an instruction, total, rejecting by name (30_encoding.md R73 to R76, R79;
41_pdu_dispatch.md R120, R123); after it the encoder, from the same formats; then the host's view of a table word. -/

namespace Sys2Proof

open Sys2Proof.Machine

/-- Why bytes are no PDU. -/
inductive DecodeError where
  /-- A PDU has at least one byte, its function code (R120, R9). -/
  | emptyPdu
deriving DecidableEq, Repr

/-- Format A: `start` and `count` from PDU bytes 1 to 4 (R74). -/
def decodeReadArgs : List Byte → ReadArgs
  | b1 :: b2 :: b3 :: b4 :: rest => .full (be16 b1 b2) (be16 b3 b4) rest
  | payload => .short payload

/-- Format B: `addr` and `value` from PDU bytes 1 to 4 (R75). -/
def decodeWriteArgs : List Byte → WriteArgs
  | b1 :: b2 :: b3 :: b4 :: rest => .full (be16 b1 b2) (be16 b3 b4) rest
  | payload => .short payload

/-- Format C: `start`, `count`, `bc` and the data from PDU bytes 1 on (R76). -/
def decodeMultiArgs : List Byte → MultiArgs
  | b1 :: b2 :: b3 :: b4 :: b5 :: data => .full (be16 b1 b2) (be16 b3 b4) b5 data
  | payload => .short payload

/-- The row that an enabled function code selects, by all 8 bits (R73). -/
def decodeEnabled (fc : Byte) (payload : List Byte) : Instr :=
  if fc = 0x01#8 then .readCoils (decodeReadArgs payload)
  else if fc = 0x02#8 then .readDiscreteInputs (decodeReadArgs payload)
  else if fc = 0x03#8 then .readHoldingRegisters (decodeReadArgs payload)
  else if fc = 0x04#8 then .readInputRegisters (decodeReadArgs payload)
  else if fc = 0x05#8 then .writeSingleCoil (decodeWriteArgs payload)
  else if fc = 0x06#8 then .writeSingleRegister (decodeWriteArgs payload)
  else if fc = 0x0F#8 then .writeMultipleCoils (decodeMultiArgs payload)
  else if fc = 0x10#8 then .writeMultipleRegisters (decodeMultiArgs payload)
  else .illegalFunction fc payload

/-- The dispatcher's decode of a PDU under the enable mask `CFG_FUNC_EN` (R120): the enable check comes first (R122). -/
def decode (funcEn : BitVec 8) : List Byte → Except DecodeError Instr
  | [] => .error .emptyPdu
  | fc :: payload =>
    if enabled funcEn fc then .ok (decodeEnabled fc payload) else .ok (.illegalFunction fc payload)

/-- Format A's bytes after the function code (R74). -/
def encodeReadArgs : ReadArgs → List Byte
  | .short payload => payload
  | .full start count rest => hiByte start :: loByte start :: hiByte count :: loByte count :: rest

/-- Format B's bytes after the function code (R75). -/
def encodeWriteArgs : WriteArgs → List Byte
  | .short payload => payload
  | .full addr value rest => hiByte addr :: loByte addr :: hiByte value :: loByte value :: rest

/-- Format C's bytes after the function code (R76). -/
def encodeMultiArgs : MultiArgs → List Byte
  | .short payload => payload
  | .full start count bc data => hiByte start :: loByte start :: hiByte count :: loByte count :: bc :: data

/-- The function code of an instruction, PDU byte 0 (R73). -/
def Instr.fc : Instr → Byte
  | .readCoils _ => 0x01#8
  | .readDiscreteInputs _ => 0x02#8
  | .readHoldingRegisters _ => 0x03#8
  | .readInputRegisters _ => 0x04#8
  | .writeSingleCoil _ => 0x05#8
  | .writeSingleRegister _ => 0x06#8
  | .writeMultipleCoils _ => 0x0F#8
  | .writeMultipleRegisters _ => 0x10#8
  | .illegalFunction fc _ => fc

/-- The PDU of an instruction (R73 to R76). -/
def encode : Instr → List Byte
  | .readCoils a => 0x01#8 :: encodeReadArgs a
  | .readDiscreteInputs a => 0x02#8 :: encodeReadArgs a
  | .readHoldingRegisters a => 0x03#8 :: encodeReadArgs a
  | .readInputRegisters a => 0x04#8 :: encodeReadArgs a
  | .writeSingleCoil a => 0x05#8 :: encodeWriteArgs a
  | .writeSingleRegister a => 0x06#8 :: encodeWriteArgs a
  | .writeMultipleCoils a => 0x0F#8 :: encodeMultiArgs a
  | .writeMultipleRegisters a => 0x10#8 :: encodeMultiArgs a
  | .illegalFunction fc payload => fc :: payload

/-- The `n` low bytes of the number `w`, bits 7 to 0 first: byte `k` of a PDU is bits `8k+7` to `8k` of the table's number. -/
def tableBytes : Nat → Nat → List Byte
  | 0, _ => []
  | n + 1, w => BitVec.ofNat 8 w :: tableBytes n (w / 256)

/-- `bytes` followed by as many zeros as make it `len` bytes long. -/
def zeroPad (len : Nat) (bytes : List Byte) : List Byte := bytes ++ List.replicate (len - bytes.length) 0#8

/-- How many PDU bytes the row of a word needs: the required length of R79, and 4 for an illegal function, so that the frame
passes the length gate (R186, R189). -/
def tablePduLen (bytes : List Byte) : Nat :=
  let fc := bytes.headD 0#8
  if fc = 0x0F#8 ∨ fc = 0x10#8 then 6 + (bytes.getD 5 0#8).toNat
  else if enabled 0xFF#8 fc then 5
  else 4

/-- The PDU that a word of opcode_table.json stands for: its bytes, then operand bytes of zero (log 12). -/
def tablePdu (nbits w : Nat) : List Byte :=
  let bytes := tableBytes (nbits / 8) w
  zeroPad (tablePduLen bytes) bytes

/-- The instruction the decoder reads from a table word, with every function code enabled (`P_FUNC_EN` = 0xFF, R10). -/
def decodeTableWord (nbits w : Nat) : Option Instr :=
  match decode 0xFF#8 (tablePdu nbits w) with
  | .ok i => some i
  | .error _ => none

end Sys2Proof
end

