-- ==== Sys2Proof/Machine/DataModel.lean ====
section
/-! DEFINITION. The data-model port (20_memory.md R54 to R57): the data model as a function over its own state, which the
dispatcher takes as a parameter (R55), and the plain-data data model that State carries (log 2, log 3, log 16). -/

namespace Sys2Proof.Machine

/-- The answer to a read of `n` points: a status and exactly `n` values, which the block reads only when the status is 0
(R55; log 14). -/
structure ReadReply (α : Type) (n : Nat) where
  st : Status
  vals : List α
  count : vals.length = n

/-- A data model over a state type: how it answers each of the four requests of R54, and its state afterwards (R55, R56). -/
structure DataModel (σ : Type) where
  readBits : BitSpace → Word → (n : Nat) → σ → ReadReply Bool n × σ
  readRegs : RegSpace → Word → (n : Nat) → σ → ReadReply Word n × σ
  writeCoil : Word → Bool → σ → Status × σ
  writeReg : Word → Word → σ → Status × σ

/-- The status of an accepted request (R57). -/
def stOk : Status := 0#2

/-- The status `IllegalAddress` (R57). -/
def stIllegalAddress : Status := 2#2

/-- The status `IllegalValue` (R57). -/
def stIllegalValue : Status := 3#2

/-! ### Answers fixed in advance -/

/-- The first `n` entries of `l`, with `d` beyond its end. -/
def fitTo {α : Type} (d : α) : Nat → List α → List α
  | 0, _ => []
  | n + 1, [] => d :: fitTo d n []
  | n + 1, x :: xs => x :: fitTo d n xs

theorem fitTo_length {α : Type} (d : α) : ∀ (n : Nat) (l : List α), (fitTo d n l).length = n
  | 0, _ => rfl
  | n + 1, [] => congrArg (· + 1) (fitTo_length d n [])
  | n + 1, _ :: xs => congrArg (· + 1) (fitTo_length d n xs)

/-! ### A stored space -/

/-- The `n` values from address `a` on; a point that is not listed holds `d`. -/
def DMSpace.values {α : Type} (d : α) (sp : DMSpace α) (a : Nat) : Nat → List α
  | 0 => []
  | n + 1 => (Cells.get? sp.cells a).getD d :: DMSpace.values d sp (a + 1) n

theorem DMSpace.values_length {α : Type} (d : α) (sp : DMSpace α) :
    ∀ (n a : Nat), (DMSpace.values d sp a n).length = n
  | 0, _ => rfl
  | n + 1, a => congrArg (· + 1) (DMSpace.values_length d sp n (a + 1))

/-- `[a, a + n)` lies inside the configured range (R58). -/
def DMSpace.contains {α : Type} (sp : DMSpace α) (a n : Nat) : Bool :=
  decide (sp.base ≤ a) && decide (a + n ≤ sp.base + sp.size)

/-- A read of a stored space: `IllegalAddress` when the range exits the configured one (R58). -/
def DMSpace.read {α : Type} (d : α) (sp : DMSpace α) (start : Word) (n : Nat) : ReadReply α n where
  st := if sp.contains start.toNat n then stOk else stIllegalAddress
  vals := sp.values d start.toNat n
  count := DMSpace.values_length d sp n start.toNat

/-- The status of a write to a stored space (R58): address out of range or write denied, then the value hook. -/
def DMSpace.writeStatus {α : Type} (sp : DMSpace α) (addr value : Nat) : Status :=
  if sp.contains addr 1 = false then stIllegalAddress
  else if sp.readOnly.contains addr then stIllegalAddress
  else if sp.limits.any (fun l => l.1 == addr && decide (l.2 < value)) then stIllegalValue
  else stOk

/-- Store `v` at `addr`; a point that holds 0 is not listed. -/
def DMSpace.store {α : Type} [DecidableEq α] (d : α) (sp : DMSpace α) (addr : Nat) (v : α) : DMSpace α :=
  { sp with cells := if v = d then Cells.erase sp.cells addr else Cells.put sp.cells addr v }

/-- A write to a stored space: an accepted one stores its value, a rejected one changes nothing (R58). -/
def DMSpace.write {α : Type} [DecidableEq α] (d : α) (num : α → Nat) (sp : DMSpace α) (addr : Word) (v : α) :
    Status × DMSpace α :=
  let st := sp.writeStatus addr.toNat (num v)
  (st, if st = stOk then sp.store d addr.toNat v else sp)

/-! ### The data model of State -/

/-- The stored space a bit request names (R53). -/
def DMState.bitSpace (d : DMState) : BitSpace → DMSpace Bool
  | .coils => d.coils
  | .discreteInputs => if d.aliasBits then d.coils else d.discreteInputs

/-- The stored space a register request names (R53). -/
def DMState.regSpace (d : DMState) : RegSpace → DMSpace Word
  | .holdingRegisters => d.holdingRegisters
  | .inputRegisters => if d.aliasRegs then d.holdingRegisters else d.inputRegisters

/-- `RD_BITS` (R54): the next fixed answer, or else the stored space. -/
def DMState.readBits (sp : BitSpace) (start : Word) (n : Nat) (d : DMState) : ReadReply Bool n × DMState :=
  match d.script with
  | a :: rest => (⟨a.st, fitTo false n a.bits, fitTo_length false n a.bits⟩, { d with script := rest })
  | [] => ((d.bitSpace sp).read false start n, d)

/-- `RD_REGS` (R54): the next fixed answer, or else the stored space. -/
def DMState.readRegs (sp : RegSpace) (start : Word) (n : Nat) (d : DMState) : ReadReply Word n × DMState :=
  match d.script with
  | a :: rest => (⟨a.st, fitTo 0#16 n a.words, fitTo_length 0#16 n a.words⟩, { d with script := rest })
  | [] => ((d.regSpace sp).read 0#16 start n, d)

/-- `WR_COIL` (R54): the next fixed answer, or else the stored coils. -/
def DMState.writeCoil (addr : Word) (v : Bool) (d : DMState) : Status × DMState :=
  match d.script with
  | a :: rest => (a.st, { d with script := rest })
  | [] =>
    let r := d.coils.write false Bool.toNat addr v
    (r.1, { d with coils := r.2 })

/-- `WR_REG` (R54): the next fixed answer, or else the stored holding registers. -/
def DMState.writeReg (addr : Word) (v : Word) (d : DMState) : Status × DMState :=
  match d.script with
  | a :: rest => (a.st, { d with script := rest })
  | [] =>
    let r := d.holdingRegisters.write 0#16 BitVec.toNat addr v
    (r.1, { d with holdingRegisters := r.2 })

/-- The data model that State carries, as the parameter the dispatcher takes (R55). -/
def DMState.model : DataModel DMState where
  readBits := DMState.readBits
  readRegs := DMState.readRegs
  writeCoil := DMState.writeCoil
  writeReg := DMState.writeReg

end Sys2Proof.Machine
end

