-- ==== Sys2Proof/Machine/Operands.lean ====
section
/-! DEFINITION. What the function rules share (41_pdu_dispatch.md R122 to R126): the outcome of a dispatch, the checks in
their order, packing and unpacking of points (42_pdu_read.md R142, R146; 43_pdu_write.md R163), and the read, write-single
and write-multiple procedures, each over any data model. -/

namespace Sys2Proof.Machine

/-- What `Dispatch(p)` returns (R120): `Ok(resp)` or `Exc(code)`. -/
inductive DispatchResult where
  | ok (resp : List Byte)
  | exc (code : Byte)
deriving DecidableEq, Repr

/-- A dispatch with its effects: the result, the data-model requests issued, in order, and the data model's state after
them (R120). The dispatcher writes no state of the block. -/
structure Dispatched (σ : Type) where
  result : DispatchResult
  requests : List DMRequest
  dm : σ

/-- `raise Exc(code)` before any request (R17, R122). -/
def raised {σ : Type} (code : Byte) (d : σ) : Dispatched σ := ⟨.exc code, [], d⟩

/-- `Check(st)`, then the success response (R126): a nonzero status becomes the exception code, zero-extended. -/
def checked {σ : Type} (st : Status) (resp : List Byte) (rs : List DMRequest) (d : σ) : Dispatched σ :=
  if st = stOk then ⟨.ok resp, rs, d⟩ else ⟨.exc (st.setWidth 8), rs, d⟩

/-- The count check: `count` is 1 to `max` (R14, R81). -/
def countOk (count : Word) (max : Nat) : Bool := decide (1 ≤ count.toNat) && decide (count.toNat ≤ max)

/-- `RequireRange(start, count)`: the exact sum does not exceed 0x10000 (R125). -/
def rangeOk (start count : Word) : Bool := decide (start.toNat + count.toNat ≤ 0x10000)

/-- The address of point `i` of a request, `start + i`; after the precheck it is exact (R78, R125). -/
def pointAddr (start : Word) (i : Nat) : Word := BitVec.ofNat 16 (start.toNat + i)

/-! ### Packing and unpacking -/

/-- Up to eight points in one byte, the first in bit 0; unused high bits are 0 (R142). -/
def packByte : List Bool → Byte
  | [] => 0#8
  | b :: bs => (packByte bs <<< 1) ||| (BitVec.ofBool b).setWidth 8

/-- `n` bytes of packed points. -/
def packBytes : Nat → List Bool → List Byte
  | 0, _ => []
  | n + 1, bits => packByte (bits.take 8) :: packBytes n (bits.drop 8)

/-- `PackBits(bits)`: `ceil8(count)` bytes, point `i` in bit `i mod 8` of byte `i div 8` (R61, R142). -/
def packBits (bits : List Bool) : List Byte := packBytes (ceil8 bits.length) bits

/-- `PackWords(words)`: each word high byte first (R59, R146). -/
def packWords : List Word → List Byte
  | [] => []
  | w :: ws => hiByte w :: loByte w :: packWords ws

/-- `CoilBit(p, i) = (p[6 + (i div 8)] >> (i mod 8)) and 1`, on the data bytes from offset 6 on (R163). -/
def coilBit (data : List Byte) (i : Nat) : Bool := (data.getD (i / 8) 0#8).getLsbD (i % 8)

/-- The `count` coil values of an FC15 request, in ascending address order (R162). -/
def coilValues (data : List Byte) (count : Nat) : List Bool := (List.range count).map (coilBit data)

/-- `be16(p, 6 + 2*i)`, on the data bytes from offset 6 on (R164). -/
def regWord (data : List Byte) (i : Nat) : Word := be16 (data.getD (2 * i) 0#8) (data.getD (2 * i + 1) 0#8)

/-- The `count` words of an FC16 request, in ascending address order (R164). -/
def regValues (data : List Byte) (count : Nat) : List Word := (List.range count).map (regWord data)

/-- The first five request bytes of an address-and-word request, `p[0..5)` (R77, R166). -/
def echo (fc : Byte) (f1 f2 : Word) : List Byte := [fc, hiByte f1, loByte f1, hiByte f2, loByte f2]

/-! ### The procedures of the function rules -/

/-- FC1 and FC2 (R140, R141): length, count, range, then one `RD_BITS`. -/
def readBitsProc {σ : Type} (dm : DataModel σ) (sp : BitSpace) (fc : Byte) (a : ReadArgs) (d : σ) : Dispatched σ :=
  match a with
  | .short _ => raised illegalValueCode d
  | .full start count _ =>
    if countOk count maxReadBits = false then raised illegalValueCode d
    else if rangeOk start count = false then raised illegalAddressCode d
    else
      let r := dm.readBits sp start count.toNat d
      checked r.1.st (fc :: BitVec.ofNat 8 (ceil8 count.toNat) :: packBits r.1.vals)
        [.rdBits sp start count.toNat] r.2

/-- FC3 and FC4 (R144, R145): length, count, range, then one `RD_REGS`. -/
def readRegsProc {σ : Type} (dm : DataModel σ) (sp : RegSpace) (fc : Byte) (a : ReadArgs) (d : σ) : Dispatched σ :=
  match a with
  | .short _ => raised illegalValueCode d
  | .full start count _ =>
    if countOk count maxReadRegs = false then raised illegalValueCode d
    else if rangeOk start count = false then raised illegalAddressCode d
    else
      let r := dm.readRegs sp start count.toNat d
      checked r.1.st (fc :: BitVec.ofNat 8 (2 * count.toNat) :: packWords r.1.vals)
        [.rdRegs sp start count.toNat] r.2

/-- FC5 (R160): length, value, then one `WR_COIL`; the response is the echo. -/
def writeCoilProc {σ : Type} (dm : DataModel σ) (fc : Byte) (a : WriteArgs) (d : σ) : Dispatched σ :=
  match a with
  | .short _ => raised illegalValueCode d
  | .full addr value _ =>
    if value ≠ coilOff ∧ value ≠ coilOn then raised illegalValueCode d
    else
      let v := value == coilOn
      let r := dm.writeCoil addr v d
      checked r.1 (echo fc addr value) [.wrCoil addr v] r.2

/-- FC6 (R161): length, then one `WR_REG`; the response is the echo. -/
def writeRegProc {σ : Type} (dm : DataModel σ) (fc : Byte) (a : WriteArgs) (d : σ) : Dispatched σ :=
  match a with
  | .short _ => raised illegalValueCode d
  | .full addr value _ =>
    let r := dm.writeReg addr value d
    checked r.1 (echo fc addr value) [.wrReg addr value] r.2

/-- The per-address loop of FC15 and FC16 (R162, R164): one write per value at `start + i`, `start + i + 1` and so on, up to
the first that fails. It gives the failing status or 0, the requests issued, and the data model's state: earlier writes
stay (R165). -/
def writeLoop {σ α : Type} (write : Word → α → σ → Status × σ) (request : Word → α → DMRequest) (start : Word) :
    Nat → List α → σ → Status × List DMRequest × σ
  | _, [], d => (stOk, [], d)
  | i, v :: vs, d =>
    let r := write (pointAddr start i) v d
    if r.1 = stOk then
      let t := writeLoop write request start (i + 1) vs r.2
      (t.1, request (pointAddr start i) v :: t.2.1, t.2.2)
    else (r.1, [request (pointAddr start i) v], r.2)

/-- FC15 and FC16 (R162, R164): length, count, byte count, data length, range, then the loop; the response is the echo of
function, start and count. -/
def writeMultiProc {σ α : Type} (write : Word → α → σ → Status × σ) (request : Word → α → DMRequest)
    (maxCount : Nat) (byteCount : Nat → Nat) (values : List Byte → Nat → List α) (fc : Byte) (a : MultiArgs) (d : σ) :
    Dispatched σ :=
  match a with
  | .short _ => raised illegalValueCode d
  | .full start count bc data =>
    if countOk count maxCount = false then raised illegalValueCode d
    else if bc.toNat ≠ byteCount count.toNat then raised illegalValueCode d
    else if data.length < bc.toNat then raised illegalValueCode d
    else if rangeOk start count = false then raised illegalAddressCode d
    else
      let r := writeLoop write request start 0 (values data count.toNat) d
      checked r.1 (echo fc start count) r.2.1 r.2.2

/-- Compose and transmit the response of a dispatch (R190, R130): the data model's new state and its requests first, then
the success frame or the exception frame, for the request's function code `fc`. -/
def respond (fc : Byte) (r : Dispatched DMState) (s : State) : Outcome :=
  match r.result with
  | .ok resp => answer resp (issued r.requests r.dm s)
  | .exc code => takeException fc code (issued r.requests r.dm s)

end Sys2Proof.Machine
end

