-- ==== Sys2Proof/Machine/Illegal.lean ====
section
/-! DEFINITION. The default arm of the dispatcher (41_pdu_dispatch.md R127). -/

namespace Sys2Proof.Machine

/-- ILLEGAL_FUNCTION (R127): `raise Exc(1)`, no request, whatever the payload. -/
def dispatchIllegalFunction {σ : Type} (d : σ) : Dispatched σ := raised illegalFunctionCode d

/-- ILLEGAL_FUNCTION (R127), answered with the exception frame for its function code. -/
def execIllegalFunction (fc : Byte) (s : State) : Outcome := respond fc (dispatchIllegalFunction s.dm) s

end Sys2Proof.Machine
end

