-- ==== Sys2Proof/Machine/Read.lean ====
section
/-! DEFINITION. The read function codes (42_pdu_read.md): each as the dispatcher's procedure over any data model, and as the
meaning that composes and transmits its response. -/

namespace Sys2Proof.Machine

/-- READ_COILS(p) (R140). -/
def dispatchReadCoils {σ : Type} (dm : DataModel σ) (a : ReadArgs) (d : σ) : Dispatched σ :=
  readBitsProc dm .coils 0x01#8 a d

/-- READ_DISCRETE_INPUTS(p) (R141). -/
def dispatchReadDiscreteInputs {σ : Type} (dm : DataModel σ) (a : ReadArgs) (d : σ) : Dispatched σ :=
  readBitsProc dm .discreteInputs 0x02#8 a d

/-- READ_HOLDING_REGISTERS(p) (R144). -/
def dispatchReadHoldingRegisters {σ : Type} (dm : DataModel σ) (a : ReadArgs) (d : σ) : Dispatched σ :=
  readRegsProc dm .holdingRegisters 0x03#8 a d

/-- READ_INPUT_REGISTERS(p) (R145). -/
def dispatchReadInputRegisters {σ : Type} (dm : DataModel σ) (a : ReadArgs) (d : σ) : Dispatched σ :=
  readRegsProc dm .inputRegisters 0x04#8 a d

/-- FC1 (R140). -/
def execReadCoils (a : ReadArgs) (s : State) : Outcome :=
  respond 0x01#8 (dispatchReadCoils DMState.model a s.dm) s

/-- FC2 (R141). -/
def execReadDiscreteInputs (a : ReadArgs) (s : State) : Outcome :=
  respond 0x02#8 (dispatchReadDiscreteInputs DMState.model a s.dm) s

/-- FC3 (R144). -/
def execReadHoldingRegisters (a : ReadArgs) (s : State) : Outcome :=
  respond 0x03#8 (dispatchReadHoldingRegisters DMState.model a s.dm) s

/-- FC4 (R145). -/
def execReadInputRegisters (a : ReadArgs) (s : State) : Outcome :=
  respond 0x04#8 (dispatchReadInputRegisters DMState.model a s.dm) s

end Sys2Proof.Machine
end

