-- ==== Sys2Proof/Machine/Write.lean ====
section
/-! DEFINITION. The write function codes (43_pdu_write.md): each as the dispatcher's procedure over any data model, and as
the meaning that composes and transmits its response. -/

namespace Sys2Proof.Machine

/-- WRITE_SINGLE_COIL(p) (R160). -/
def dispatchWriteSingleCoil {σ : Type} (dm : DataModel σ) (a : WriteArgs) (d : σ) : Dispatched σ :=
  writeCoilProc dm 0x05#8 a d

/-- WRITE_SINGLE_REGISTER(p) (R161). -/
def dispatchWriteSingleRegister {σ : Type} (dm : DataModel σ) (a : WriteArgs) (d : σ) : Dispatched σ :=
  writeRegProc dm 0x06#8 a d

/-- WRITE_MULTIPLE_COILS(p) (R162): `bc` must be `ceil8(count)`. -/
def dispatchWriteMultipleCoils {σ : Type} (dm : DataModel σ) (a : MultiArgs) (d : σ) : Dispatched σ :=
  writeMultiProc dm.writeCoil .wrCoil maxWriteCoils ceil8 coilValues 0x0F#8 a d

/-- WRITE_MULTIPLE_REGISTERS(p) (R164): `bc` must be `2*count`. -/
def dispatchWriteMultipleRegisters {σ : Type} (dm : DataModel σ) (a : MultiArgs) (d : σ) : Dispatched σ :=
  writeMultiProc dm.writeReg .wrReg maxWriteRegs (fun c => 2 * c) regValues 0x10#8 a d

/-- FC5 (R160). -/
def execWriteSingleCoil (a : WriteArgs) (s : State) : Outcome :=
  respond 0x05#8 (dispatchWriteSingleCoil DMState.model a s.dm) s

/-- FC6 (R161). -/
def execWriteSingleRegister (a : WriteArgs) (s : State) : Outcome :=
  respond 0x06#8 (dispatchWriteSingleRegister DMState.model a s.dm) s

/-- FC15 (R162). -/
def execWriteMultipleCoils (a : MultiArgs) (s : State) : Outcome :=
  respond 0x0F#8 (dispatchWriteMultipleCoils DMState.model a s.dm) s

/-- FC16 (R164). -/
def execWriteMultipleRegisters (a : MultiArgs) (s : State) : Outcome :=
  respond 0x10#8 (dispatchWriteMultipleRegisters DMState.model a s.dm) s

end Sys2Proof.Machine
end

