-- ==== Sys2Proof/Machine/Dispatch.lean ====
section
/-! DEFINITION. The dispatch of a decoded request to its meaning (41_pdu_dispatch.md R120). -/

namespace Sys2Proof.Machine

open Sys2Proof

-- What runs once the three frame gates have passed (44_rtu_framer.md R190, R193): dispatch, compose, StartTx.
def exec (i : Instr) (s : State) : Host.Outcome State Fault Refusal :=
  match i with
  | .readCoils a => Sys2Proof.Machine.execReadCoils a s
  | .readDiscreteInputs a => Sys2Proof.Machine.execReadDiscreteInputs a s
  | .readHoldingRegisters a => Sys2Proof.Machine.execReadHoldingRegisters a s
  | .readInputRegisters a => Sys2Proof.Machine.execReadInputRegisters a s
  | .writeSingleCoil a => Sys2Proof.Machine.execWriteSingleCoil a s
  | .writeSingleRegister a => Sys2Proof.Machine.execWriteSingleRegister a s
  | .writeMultipleCoils a => Sys2Proof.Machine.execWriteMultipleCoils a s
  | .writeMultipleRegisters a => Sys2Proof.Machine.execWriteMultipleRegisters a s
  | .illegalFunction fc _ => Sys2Proof.Machine.execIllegalFunction fc s

end Sys2Proof.Machine
end

