-- ==== Sys2Proof/Machine/Framer.lean ====
section
/-! DEFINITION. The RTU framer (44_rtu_framer.md): byte reception with the overflow wrap, silence detection, the frame end with
its three gates, the end of a transmission, receive errors. -/

namespace Sys2Proof.Machine

/-- `RX_BUF[RX_LEN] <- b; RX_LEN <- RX_LEN + 1; LAST_RX_TIME <- now` (R181). -/
def appendByte (b : Byte) (now : Time) (s : State) : Outcome :=
  if s.rxLen < s.params.bufSize then
    .next { s with rxBuf := s.rxBuf.write s.rxLen b, rxLen := s.rxLen + 1, lastRxTime := now }
  else .fault (.rxBufIndex s.rxLen)

/-- The overflow wrap (R182): the cursor returns to index 0 and `OVF_CNT` counts it; the old bytes stay in `RX_BUF`. -/
def wrapRx (s : State) : State := { s with rxLen := 0, ovfCnt := s.ovfCnt + 1#16 }

/-- `E_BYTE(b, now)`: appended in RECEIVING, with the wrap when the buffer is full (R181, R182); lost in TRANSMITTING (R183). -/
def eventByte (b : Byte) (now : Time) (s : State) : Outcome :=
  match s.mode with
  | .receiving => appendByte b now (if s.rxLen = s.params.bufSize then wrapRx s else s)
  | .transmitting => .next s

/-- `(now - LAST_RX_TIME) mod 2^P_TIME_W` (R184). -/
def silence (now : Time) (s : State) : Time := now - s.lastRxTime

/-- The condition on which a poll ends a frame: RECEIVING, a nonempty buffer, and strictly more silence than the threshold
(R184). -/
def frameEnds (now : Time) (s : State) : Bool :=
  s.mode == .receiving && decide (0 < s.rxLen) && decide (s.cfgTSilence.toNat < (silence now s).toNat)

/-- `f = RX_BUF[0..RX_LEN)` (R193). -/
def rxFrame (s : State) : Except Nat (List Byte) := s.rxBuf.slice 0 s.rxLen

/-- The PDU of a frame, `f[1 .. n-2)`: the bytes between the address and the CRC (R189). -/
def pduOf (f : List Byte) : List Byte := (f.drop 1).take (f.length - 3)

/-- Gate 1 (R186): the length exceeds `P_MIN_FRAME_LEN`. -/
def lengthGate (s : State) (f : List Byte) : Bool := decide (s.params.minFrameLen < f.length)

/-- Gate 2 (R187): byte 0 equals `CFG_SLAVE_ADDR`, all 8 bits; no address is special. -/
def addressGate (s : State) (f : List Byte) : Bool := f.head? == some s.cfgSlaveAddr

/-- Gate 3 (R188): the CRC suffix matches. -/
def crcGate (s : State) (f : List Byte) : Bool := crcOk s.params.crcWireOrder f

/-- A CRC drop counts in `CRC_ERR_CNT` (R188). -/
def countCrcErr (s : State) : State := { s with crcErrCnt := s.crcErrCnt + 1#16 }

/-- Dispatch, compose and transmit for an accepted frame (R189, R190): the request its PDU decodes to is executed. -/
def runPdu (p : List Byte) (s : State) : Outcome :=
  match decode s.cfgFuncEn p with
  | .ok i => exec i s
  | .error .emptyPdu => .refused .emptyPdu

/-- The gates in their order, then dispatch (R192, R193). -/
def gates (f : List Byte) (s : State) : Outcome :=
  if lengthGate s f = false then .next (dropFrame s)
  else if addressGate s f = false then .next (dropFrame s)
  else if crcGate s f = false then .next (dropFrame (countCrcErr s))
  else runPdu (pduOf f) s

/-- `FrameEnd(now)` (R193). It does not use `now`. -/
def frameEnd (s : State) : Outcome :=
  match rxFrame s with
  | .error i => .fault (.rxByteAbsent i)
  | .ok f => gates f s

/-- `E_POLL(now)` (R184, R185). -/
def eventPoll (now : Time) (s : State) : Outcome := if frameEnds now s then frameEnd s else .next s

/-- The transmitter has completed its oldest hand-off, if it has one (R37, R195; log 8). -/
def completeTx (s : State) : State := { s with txInFlight := s.txInFlight.drop 1 }

/-- `E_TXDONE(now, st)`: ends the transmission in TRANSMITTING, with `ERROR` handled exactly like `OK` (R196); no effect on
the block in RECEIVING (R197). -/
def eventTxDone (now : Time) (_st : TxStatus) (s : State) : State :=
  match s.mode with
  | .transmitting => endTx now (completeTx s)
  | .receiving => completeTx s

/-- `E_RXERR()`: discards the partial frame in RECEIVING (R198); no effect in TRANSMITTING (R199). -/
def eventRxErr (s : State) : State :=
  match s.mode with
  | .receiving => { s with rxLen := 0, de := false }
  | .transmitting => s

end Sys2Proof.Machine
end

