-- ==== Sys2Proof/Machine/Reset.lean ====
section
/-! DEFINITION. The reset event (70_reset_and_hazards.md R240). -/

namespace Sys2Proof.Machine

/-- `E_RESET()` (R240): every field of the block's record at its reset value (R43), from this block's parameters. The data
model and the transmitter are not touched. The buffers' contents become unspecified: every byte is absent (R39, log 5). -/
def eventReset (s : State) : State :=
  { s with
    mode := .receiving
    rxBuf := []
    rxLen := 0
    lastRxTime := 0#32
    lastTxTime := 0#32
    de := false
    txBuf := []
    txLen := 0
    crcReg := crcInitValue
    crcErrCnt := 0#16
    ovfCnt := 0#16
    cfgSlaveAddr := s.params.slaveAddr
    cfgTSilence := s.params.tSilence
    cfgFuncEn := s.params.funcEn }

end Sys2Proof.Machine
end

