-- ==== Sys2Proof/Machine/Events.lean ====
section
/-! DEFINITION. One event as one atomic step (10_state.md R40, R41), and the frame of a table word placed where the next
step fetches its request (log 12). -/

namespace Sys2Proof.Machine

/-- The effect of an event on the block (R40). -/
def handle (e : Event) (s : State) : Outcome :=
  match e with
  | .byte b now => eventByte b now s
  | .rxErr => .next (eventRxErr s)
  | .poll now => eventPoll now s
  | .txDone now st => .next (eventTxDone now st s)
  | .crcInit => .next (eventCrcInit s)
  | .crcByte b => .next (eventCrcByte b s)
  | .reset => .next (eventReset s)

/-- The event is delivered: it leaves the environment's list, and nothing has been emitted yet (log 6). -/
def deliver (rest : List Event) (s : State) : State := { s with inputs := rest, out := [] }

/-- The event is over: what it emitted and the levels after it enter the trace (R41; log 7). -/
def closeEvent (e : Event) (s : State) : State :=
  { s with out := [], trace := s.trace ++ [⟨e, s.out, observe s⟩] }

/-- One event, whole (R40): delivered, handled, recorded. -/
def runEvent (e : Event) (rest : List Event) (s : State) : Outcome :=
  andThen (handle e (deliver rest s)) fun t => .next (closeEvent e t)

/-- The threshold under which the loaded frame can end: no silence exceeds the largest one (R184). -/
def loadSilence (s : State) : Time := if s.cfgTSilence = BitVec.allOnes 32 then 0#32 else s.cfgTSilence

/-- The PDU of a table word, lengthened by zeros if this block's length gate needs a longer frame (R186, R189). -/
def loadPdu (nbits w : Nat) (s : State) : List Byte := zeroPad (s.params.minFrameLen - 2) (tablePdu nbits w)

/-- The frame of a PDU addressed to this block (R70). -/
def requestFrame (p : List Byte) (s : State) : List Byte := framed s.params.crcWireOrder (s.cfgSlaveAddr :: p)

/-- A PDU placed as a received frame that the next step ends with a poll (R181, R184; log 12). -/
def placeRequest (p : List Byte) (s : State) : State :=
  { s with
    mode := .receiving
    de := false
    rxBuf := s.rxBuf.writeAll 0 (requestFrame p s)
    rxLen := (requestFrame p s).length
    cfgTSilence := loadSilence s
    inputs := .poll (s.lastRxTime + loadSilence s + 1#32) :: s.inputs }

end Sys2Proof.Machine
end

