-- ==== Sys2Proof/Machine/Step.lean ====
section
/-! DEFINITION. One step of the machine: the oldest event the environment delivers, or nothing (10_state.md R40; 60_exceptions.md
R228: between events the block holds its state unchanged). -/

namespace Sys2Proof.Machine

def step (s : State) : Host.Outcome State Fault Refusal :=
  match s.inputs with
  | [] => .next s
  | e :: rest => runEvent e rest s

/-- `s` with the request of a table word received as a frame, and the poll that ends it delivered next (log 12). -/
def State.withFetchWord (s : State) (nbits w : Nat) : State := placeRequest (loadPdu nbits w s) s

end Sys2Proof.Machine
end

