-- ==== Sys2Proof/Safety.lean ====
section
/-! DEFINITION. What the claims are stated in: the machine's invariant, what an event that does nothing leaves, and what a
response leaves changed and unchanged (its frame). -/

namespace Sys2Proof.Machine

/-- Every address below `n` holds a byte. -/
def Memory.heldBelow (m : Memory) (n : Nat) : Prop := ∀ a, a < n → (m.read? a).isSome = true

/-- No address from `size` on holds a byte: the memory has `size` addresses (R50). -/
def Memory.within (m : Memory) (size : Nat) : Prop := ∀ a, size ≤ a → m.read? a = none

/-- The canonical form of a stored space: strictly rising addresses, and no entry that reads as an unlisted point does. -/
def DMSpace.wf {α : Type} [DecidableEq α] (d : α) (sp : DMSpace α) : Bool :=
  Cells.rising none sp.cells && sp.cells.all fun c => decide (c.2 ≠ d)

/-- The canonical form of the data model's four stored spaces. -/
def DMState.wf (d : DMState) : Bool :=
  d.coils.wf false && d.discreteInputs.wf false && d.holdingRegisters.wf 0#16 && d.inputRegisters.wf 0#16

/-- The machine's invariant. The parameters are legal (R8, R9, R12); the buffers are in canonical form, hold no byte beyond
their capacity (R50) and hold every byte below their length, so that no rule reads an absent byte (R39); the lengths stay
in their ranges (R22); `DE = 1` if and only if `MODE = TRANSMITTING` (R28); the configuration registers hold the parameters
(R33); the stored data model is in canonical form. -/
structure BlockInv (s : State) : Prop where
  legal : s.params.legal
  rxLen_le : s.rxLen ≤ s.params.bufSize
  rxBuf_wf : s.rxBuf.wf = true
  rxBuf_held : s.rxBuf.heldBelow s.rxLen
  rxBuf_within : s.rxBuf.within s.params.bufSize
  txLen_le : s.txLen ≤ s.params.txbufSize
  txBuf_wf : s.txBuf.wf = true
  txBuf_held : s.txBuf.heldBelow s.txLen
  txBuf_within : s.txBuf.within s.params.txbufSize
  de_iff : s.de = true ↔ s.mode = .transmitting
  cfgSlaveAddr_eq : s.cfgSlaveAddr = s.params.slaveAddr
  cfgTSilence_eq : s.cfgTSilence = s.params.tSilence
  cfgFuncEn_eq : s.cfgFuncEn = s.params.funcEn
  dm_wf : s.dm.wf = true

/-- The block's record (R22), its parameters and the data model are the same in both states. -/
structure SameBlock (s t : State) : Prop where
  mode : t.mode = s.mode
  rxBuf : t.rxBuf = s.rxBuf
  rxLen : t.rxLen = s.rxLen
  lastRxTime : t.lastRxTime = s.lastRxTime
  lastTxTime : t.lastTxTime = s.lastTxTime
  de : t.de = s.de
  txBuf : t.txBuf = s.txBuf
  txLen : t.txLen = s.txLen
  crcReg : t.crcReg = s.crcReg
  crcErrCnt : t.crcErrCnt = s.crcErrCnt
  ovfCnt : t.ovfCnt = s.ovfCnt
  cfgSlaveAddr : t.cfgSlaveAddr = s.cfgSlaveAddr
  cfgTSilence : t.cfgTSilence = s.cfgTSilence
  cfgFuncEn : t.cfgFuncEn = s.cfgFuncEn
  params : t.params = s.params
  dm : t.dm = s.dm

/-- `t` is `s` after a response with the PDU `pdu`, the data-model requests `rs` and the data model's state `d` after them.
The frame `q` is the address, the PDU and the CRC suffix (R129, R131). `TX_BUF[0..len(q))` holds it and `TX_LEN` is its
length; every other byte of `TX_BUF`, all of `RX_BUF` and every other field are as before; TRANSMITTING, `DE = 1`, and
`Transmit(q)` is emitted after the requests (R194). -/
structure Responded (s : State) (pdu : List Byte) (rs : List DMRequest) (d : DMState) (t : State) : Prop where
  mode : t.mode = .transmitting
  de : t.de = true
  txLen : t.txLen = pdu.length + 3
  txBytes : ∀ a, a < pdu.length + 3 →
    t.txBuf.read? a = (framed s.params.crcWireOrder (s.cfgSlaveAddr :: pdu))[a]?
  txOther : ∀ a, pdu.length + 3 ≤ a → t.txBuf.read? a = s.txBuf.read? a
  rxBuf : ∀ a, t.rxBuf.read? a = s.rxBuf.read? a
  rxLen : t.rxLen = s.rxLen
  lastRxTime : t.lastRxTime = s.lastRxTime
  lastTxTime : t.lastTxTime = s.lastTxTime
  crcReg : t.crcReg = s.crcReg
  crcErrCnt : t.crcErrCnt = s.crcErrCnt
  ovfCnt : t.ovfCnt = s.ovfCnt
  cfgSlaveAddr : t.cfgSlaveAddr = s.cfgSlaveAddr
  cfgTSilence : t.cfgTSilence = s.cfgTSilence
  cfgFuncEn : t.cfgFuncEn = s.cfgFuncEn
  params : t.params = s.params
  dm : t.dm = d
  txInFlight : t.txInFlight = s.txInFlight ++ [framed s.params.crcWireOrder (s.cfgSlaveAddr :: pdu)]
  inputs : t.inputs = s.inputs
  out : t.out = s.out ++ rs.map .dmRequest ++ [.transmit (framed s.params.crcWireOrder (s.cfgSlaveAddr :: pdu))]
  trace : t.trace = s.trace

/-- The response PDU of a dispatch (R128, R130, R190): the success PDU, or the exception PDU of the request's function
code. -/
def responsePdu {σ : Type} (fc : Byte) (r : Dispatched σ) : List Byte :=
  match r.result with
  | .ok resp => resp
  | .exc code => [fc ||| 0x80#8, code]

/-- The silence measured at `now`, `(now - LAST_RX_TIME) mod 2^32`, is strictly above the threshold (R184). -/
def SilenceExceeded (now : Time) (s : State) : Prop :=
  s.cfgTSilence.toNat < (now.toNat + (2 ^ 32 - s.lastRxTime.toNat)) % 2 ^ 32

/-- A poll at `now` ends the frame `f` held in `RX_BUF` (R184, R193). -/
structure FrameEndsAt (s : State) (now : Time) (rest : List Event) (f : List Byte) : Prop where
  event : s.inputs = .poll now :: rest
  mode : s.mode = .receiving
  nonempty : 0 < s.rxLen
  silence : SilenceExceeded now s
  frame : s.rxBuf.slice 0 s.rxLen = .ok f

/-- The event `e` ended with no output: nothing was transmitted and no data-model request was made (R191). -/
def Silent (s t : State) (e : Event) : Prop :=
  t.txInFlight = s.txInFlight ∧ t.out = [] ∧ ∃ lv, t.trace = s.trace ++ [⟨e, [], lv⟩]

/-- No hand-off is in flight in RECEIVING, and exactly one in TRANSMITTING (R41). -/
def OneInFlight (s : State) : Prop :=
  (s.mode = .receiving ∧ s.txInFlight = []) ∨ (s.mode = .transmitting ∧ ∃ q, s.txInFlight = [q])

/-- The dispatcher over any data model: the procedure of each function code (R120, R55). -/
def dispatchWith {σ : Type} (dm : DataModel σ) (i : Instr) (d : σ) : Dispatched σ :=
  match i with
  | .readCoils a => dispatchReadCoils dm a d
  | .readDiscreteInputs a => dispatchReadDiscreteInputs dm a d
  | .readHoldingRegisters a => dispatchReadHoldingRegisters dm a d
  | .readInputRegisters a => dispatchReadInputRegisters dm a d
  | .writeSingleCoil a => dispatchWriteSingleCoil dm a d
  | .writeSingleRegister a => dispatchWriteSingleRegister dm a d
  | .writeMultipleCoils a => dispatchWriteMultipleCoils dm a d
  | .writeMultipleRegisters a => dispatchWriteMultipleRegisters dm a d
  | .illegalFunction _ _ => dispatchIllegalFunction d

/-- The bytes of a frame as the bus delivers them: one `E_BYTE` each, the times as given (R82's `SEND`, with any times). -/
def byteEvents (bs : List (Byte × Time)) : List Event := bs.map fun c => .byte c.1 c.2

/-- The bytes that the data strobes among `es` give the CRC unit, in order (R101). -/
def crcBytesOf (es : List Event) : List Byte :=
  es.filterMap fun e =>
    match e with
    | .crcByte b => some b
    | _ => none

end Sys2Proof.Machine
end

