-- ==== Sys2Proof/Certificates/Slice0/Obligations.lean ====
section
/-! DEFINITION. The statements for the provers, by the rules of spec/ they come from. -/

open Sys2Proof Sys2Proof.Machine

/-! ### Encoding (30_encoding.md) -/

/-- No bit of a request is dropped: decoding the PDU of any well-formed instruction, under any enable mask, gives it back. -/
def Obligations.DecodeOfEncodeIsTheInstruction : Prop :=
  ∀ (funcEn : BitVec 8) (i : Instr), i.wellFormed funcEn = true → decode funcEn (encode i) = .ok i

/-- Each PDU has one meaning: an instruction that a PDU decodes to is well-formed and encodes to that PDU. -/
def Obligations.EncodeOfDecodeIsThePdu : Prop :=
  ∀ (funcEn : BitVec 8) (p : List Byte) (i : Instr), decode funcEn p = .ok i →
    encode i = p ∧ i.wellFormed funcEn = true

/-- R121: which codes are enabled, and that with every bit set they are exactly the eight. -/
def Obligations.EnabledCodesAreTheEight : Prop :=
  (∀ (e : BitVec 8) (fc : Byte), enabled e fc = true ↔
    (fc = 0x01#8 ∧ e[0] = true) ∨ (fc = 0x02#8 ∧ e[1] = true) ∨ (fc = 0x03#8 ∧ e[2] = true) ∨
    (fc = 0x04#8 ∧ e[3] = true) ∨ (fc = 0x05#8 ∧ e[4] = true) ∨ (fc = 0x06#8 ∧ e[5] = true) ∨
    (fc = 0x0F#8 ∧ e[6] = true) ∨ (fc = 0x10#8 ∧ e[7] = true)) ∧
  (∀ fc : Byte, enabled 0xFF#8 fc = true ↔
    fc ∈ [0x01#8, 0x02#8, 0x03#8, 0x04#8, 0x05#8, 0x06#8, 0x0F#8, 0x10#8])

/-- PDUs of 95_test_vectors.md, written out byte by byte, decode to the instructions they stand for. -/
def Obligations.WrittenOutPdusDecode : Prop :=
  decode 0xFF#8 [0x01#8, 0x00#8, 0x02#8, 0x00#8, 0x08#8] = .ok (.readCoils (.full 2#16 8#16 [])) ∧
  decode 0xFF#8 [0x03#8, 0x00#8, 0x00#8, 0x00#8, 0x01#8, 0xAA#8] =
    .ok (.readHoldingRegisters (.full 0#16 1#16 [0xAA#8])) ∧
  decode 0xFF#8 [0x05#8, 0x00#8, 0x03#8, 0xFF#8, 0x00#8] = .ok (.writeSingleCoil (.full 3#16 0xFF00#16 [])) ∧
  decode 0xFF#8 [0x06#8, 0x00#8, 0x01#8] = .ok (.writeSingleRegister (.short [0x00#8, 0x01#8])) ∧
  decode 0xFF#8 [0x0F#8, 0x00#8, 0x00#8, 0x00#8, 0x0A#8, 0x02#8, 0xCD#8, 0x02#8] =
    .ok (.writeMultipleCoils (.full 0#16 10#16 2#8 [0xCD#8, 0x02#8])) ∧
  decode 0xFF#8 [0x2B#8, 0x0E#8, 0x01#8, 0x00#8] = .ok (.illegalFunction 0x2B#8 [0x0E#8, 0x01#8, 0x00#8]) ∧
  decode 0xEF#8 [0x05#8, 0x00#8, 0x03#8, 0xFF#8, 0x00#8] =
    .ok (.illegalFunction 0x05#8 [0x00#8, 0x03#8, 0xFF#8, 0x00#8])

/-- A table word placed where the next step fetches runs as the instruction the decoder reads from it (log 12: the model's
own convention). -/
def Obligations.PlacedTableWordRuns : Prop :=
  ∀ (s : State) (nbits w : Nat) (i : Instr), s.cfgFuncEn = 0xFF#8 → s.params.minFrameLen ≤ 6 →
    decodeTableWord nbits w = some i →
    ∃ now, (s.withFetchWord nbits w).inputs = .poll now :: s.inputs ∧
      step (s.withFetchWord nbits w) =
        andThen (exec i (deliver s.inputs (s.withFetchWord nbits w))) fun t => .next (closeEvent (.poll now) t)

/-! ### The CRC (40_crc.md) -/

/-- R100, R101: the two CRC strobes write CRC_REG as their pseudocode says, and nothing else. -/
def Obligations.CrcStrobesWriteOnlyTheCrcRegister : Prop :=
  (∀ (s : State) (rest : List Event), s.inputs = .crcInit :: rest →
    ∃ t, step s = .next t ∧ t.crcReg = 0xFFFF#16 ∧ SameBlock { s with crcReg := t.crcReg } t ∧ Silent s t .crcInit) ∧
  (∀ (s : State) (b : Byte) (rest : List Event), s.inputs = .crcByte b :: rest →
    ∃ t, step s = .next t ∧
      (let shift : Word → Word := fun r => if r[0] = true then (r >>> 1) ^^^ 0xA001#16 else r >>> 1
       t.crcReg = shift (shift (shift (shift (shift (shift (shift (shift (s.crcReg ^^^ b.setWidth 16))))))))) ∧
      SameBlock { s with crcReg := t.crcReg } t ∧ Silent s t (.crcByte b))

/-- R102: after the init strobe and one data strobe per byte of `p`, with any events of the framer but no other CRC event and
no reset between them, CRC_REG is `crc16(p)`, the fold of CrcStep over `p` from 0xFFFF. -/
def Obligations.CrcUnitComputesCrc16 : Prop :=
  ∀ (s : State) (es rest : List Event), BlockInv s → s.inputs = .crcInit :: es ++ rest →
    (∀ e ∈ es, e ≠ .crcInit ∧ e ≠ .reset) →
    ∃ t, core.run (es.length + 1) s = .next t ∧ t.inputs = rest ∧ t.crcReg = crc16 (crcBytesOf es) ∧
      crc16 (crcBytesOf es) = (crcBytesOf es).foldl crcStep 0xFFFF#16

/-- The worked values of R103 and of the vectors V-CRC-1 to V-CRC-6. -/
def Obligations.CrcWorkedValues : Prop :=
  crc16 [] = 0xFFFF#16 ∧ crc16 [0x00#8] = 0x40BF#16 ∧ crc16 [0xFF#8] = 0x00FF#16 ∧ crc16 [0x01#8] = 0x807E#16 ∧
  crc16 [0x01#8, 0x03#8, 0x00#8, 0x00#8, 0x00#8, 0x01#8] = 0x0A84#16 ∧
  crc16 [0x31#8, 0x32#8, 0x33#8, 0x34#8, 0x35#8, 0x36#8, 0x37#8, 0x38#8, 0x39#8] = 0x4B37#16 ∧
  crcWire .lowFirst 0x0A84#16 = [0x84#8, 0x0A#8] ∧ crcWire .highFirst 0x0A84#16 = [0x0A#8, 0x84#8]

/-- R104, R106: the CRC unit's two outputs are CRC_REG and its suffix in the wire order of the block, low byte first or high
byte first; both are readable at status index 9. -/
def Obligations.CrcOutputsFollowTheRegister : Prop :=
  ∀ s : State,
    crcOut s = s.crcReg ∧ (regRead s 9).toNat = s.crcReg.toNat ∧
    (s.params.crcWireOrder = .lowFirst → crcWireOut s = [s.crcReg.extractLsb' 0 8, s.crcReg.extractLsb' 8 8]) ∧
    (s.params.crcWireOrder = .highFirst → crcWireOut s = [s.crcReg.extractLsb' 8 8, s.crcReg.extractLsb' 0 8]) ∧
    (∀ r : Word, crcWire .lowFirst r = [r.extractLsb' 0 8, r.extractLsb' 8 8] ∧
      crcWire .highFirst r = [r.extractLsb' 8 8, r.extractLsb' 0 8])

/-- R107: the round trip in both wire orders; under LOW_FIRST the residue is 0, and a fold over the whole frame tested for
zero is the same check; under HIGH_FIRST it is not. -/
def Obligations.CrcSuffixRoundTripAndResidue : Prop :=
  (∀ (order : CrcOrder) (d : List Byte), crcOk order (d ++ crcWire order (crc16 d)) = true) ∧
  (∀ d : List Byte, crc16 (d ++ crcWire .lowFirst (crc16 d)) = 0x0000#16) ∧
  (∀ f : List Byte, 2 ≤ f.length → (crcOk .lowFirst f = true ↔ crc16 f = 0x0000#16)) ∧
  (∃ f : List Byte, 2 ≤ f.length ∧ ¬(crcOk .highFirst f = true ↔ crc16 f = 0x0000#16))

/-- R108: a frame with its CRC suffix in which any single bit is flipped, in the data or in the suffix, fails the check;
so does one in which any one byte is changed in any way. -/
def Obligations.SingleErrorsFailTheCrcCheck : Prop :=
  ∀ (order : CrcOrder) (d : List Byte) (i : Nat) (b : Byte), (d ++ crcWire order (crc16 d))[i]? = some b →
    (∀ k : Nat, k < 8 → crcOk order ((d ++ crcWire order (crc16 d)).set i (b ^^^ (1#8 <<< k))) = false) ∧
    (∀ v : Byte, v ≠ b → crcOk order ((d ++ crcWire order (crc16 d)).set i v) = false)

/-- R30: only the CRC strobes and the reset change CRC_REG, and the framer does not read it: with any other value there, every
step makes the same change to the rest of the block and to the data model and emits the same outputs. -/
def Obligations.FramerAndCrcUnitAreApart : Prop :=
  (∀ s t : State, step s = .next t → t.crcReg ≠ s.crcReg →
    ∃ rest, s.inputs = .crcInit :: rest ∨ (∃ b, s.inputs = .crcByte b :: rest) ∨ s.inputs = .reset :: rest) ∧
  (∀ (s t : State) (r : Word), step s = .next t →
    ∃ t', step { s with crcReg := r } = .next t' ∧ SameBlock { t with crcReg := t'.crcReg } t' ∧
      t'.txInFlight = t.txInFlight ∧ t'.inputs = t.inputs ∧
      t'.trace.map (fun e => (e.event, e.outputs)) = t.trace.map (fun e => (e.event, e.outputs)))

/-! ### State, status port and reset (10_state.md, 70_reset_and_hazards.md) -/

/-- R34: the status port, register by register, and its values after reset. -/
def Obligations.StatusPortReadsItsTable : Prop :=
  (∀ s : State, s.rxLen ≤ 65535 →
    (regRead s 0).toNat = (if s.mode = .transmitting then 1 else 0) + (if s.de = true then 2 else 0) +
      (if s.mode = .receiving then 4 else 0) ∧
    (regRead s 1).toNat = s.rxLen ∧
    (regRead s 2).toNat = s.crcErrCnt.toNat ∧
    (regRead s 3).toNat = s.ovfCnt.toNat ∧
    (regRead s 4).toNat = s.lastRxTime.toNat ∧
    (regRead s 5).toNat = s.lastTxTime.toNat ∧
    (regRead s 6).toNat = s.cfgSlaveAddr.toNat ∧
    (regRead s 7).toNat = s.cfgTSilence.toNat ∧
    (regRead s 8).toNat = s.cfgFuncEn.toNat ∧
    (regRead s 9).toNat = s.crcReg.toNat ∧
    (∀ idx : Nat, 10 ≤ idx → regRead s idx = 0#32)) ∧
  (∀ (P : Params) (d : DMState),
    regRead (State.resetWith P d) 0 = 4#32 ∧ regRead (State.resetWith P d) 1 = 0#32 ∧
    regRead (State.resetWith P d) 2 = 0#32 ∧ regRead (State.resetWith P d) 3 = 0#32 ∧
    regRead (State.resetWith P d) 4 = 0#32 ∧ regRead (State.resetWith P d) 5 = 0#32 ∧
    (regRead (State.resetWith P d) 6).toNat = P.slaveAddr.toNat ∧
    (regRead (State.resetWith P d) 7).toNat = P.tSilence.toNat ∧
    (regRead (State.resetWith P d) 8).toNat = P.funcEn.toNat ∧
    regRead (State.resetWith P d) 9 = 0xFFFF#32)

/-- R43: the value of every field of the block after E_RESET, from any state; the data model and the transmitter are not
touched (R240). The buffers' contents are unspecified there and not stated here. -/
def Obligations.ResetEventLeavesTheResetValues : Prop :=
  ∀ (s : State) (rest : List Event), s.inputs = .reset :: rest →
    ∃ t, step s = .next t ∧ t.mode = .receiving ∧ t.rxLen = 0 ∧ t.lastRxTime = 0#32 ∧ t.lastTxTime = 0#32 ∧
      t.de = false ∧ t.txLen = 0 ∧ t.crcReg = 0xFFFF#16 ∧ t.crcErrCnt = 0#16 ∧ t.ovfCnt = 0#16 ∧
      t.cfgSlaveAddr = s.params.slaveAddr ∧ t.cfgTSilence = s.params.tSilence ∧ t.cfgFuncEn = s.params.funcEn ∧
      t.params = s.params ∧ t.dm = s.dm ∧ t.txInFlight = s.txInFlight ∧ t.inputs = rest

/-- The reset state of every block with legal parameters, beside every data model in canonical form, has the invariant; so
has State.reset, whose slave address, silence threshold and data model are the model's choice (log 1, log 3). -/
def Obligations.ResetStateHasTheInvariant : Prop :=
  (∀ (P : Params) (d : DMState), P.legal → d.wf = true → BlockInv (State.resetWith P d)) ∧ BlockInv State.reset

/-- Headline: from every state with the invariant, whatever event the environment delivers, the step answers a next state
(no fault and no refusal: no absent byte is ever read, no index exceeds a buffer) and the invariant holds there. -/
def Obligations.StepNeverStopsAndKeepsTheInvariant : Prop :=
  ∀ s : State, BlockInv s → ∃ t, step s = .next t ∧ BlockInv t

/-- R28's invariant alone, with no other premise: DE = 1 if and only if MODE = TRANSMITTING. -/
def Obligations.DriverEnableFollowsMode : Prop :=
  ∀ s t : State, (s.de = true ↔ s.mode = .transmitting) → step s = .next t → (t.de = true ↔ t.mode = .transmitting)

/-- R23: MODE becomes TRANSMITTING only in a poll that hands off a response, and RECEIVING again only by a transmit completion
or a reset. -/
def Obligations.ModeChangesOnlyAtHandOffAndCompletion : Prop :=
  ∀ s t : State, step s = .next t → t.mode ≠ s.mode →
    (s.mode = .receiving ∧ t.mode = .transmitting ∧
      ∃ now rest q, s.inputs = .poll now :: rest ∧ t.txInFlight = s.txInFlight ++ [q]) ∨
    (s.mode = .transmitting ∧ t.mode = .receiving ∧
      ∃ rest, (∃ now st, s.inputs = .txDone now st :: rest) ∨ s.inputs = .reset :: rest)

/-- R33: the configuration registers are loaded at reset from the parameters, and no other event changes them. -/
def Obligations.ConfigurationIsReadOnly : Prop :=
  ∀ s t : State, step s = .next t →
    t.params = s.params ∧
    ((∃ rest, s.inputs = .reset :: rest) →
      t.cfgSlaveAddr = s.params.slaveAddr ∧ t.cfgTSilence = s.params.tSilence ∧ t.cfgFuncEn = s.params.funcEn) ∧
    ((¬∃ rest, s.inputs = .reset :: rest) →
      t.cfgSlaveAddr = s.cfgSlaveAddr ∧ t.cfgTSilence = s.cfgTSilence ∧ t.cfgFuncEn = s.cfgFuncEn)

/-- R36: no output depends on the bytes of RX_BUF at and above RX_LEN or of TX_BUF at and above TX_LEN: with any other bytes
there a step makes the same change to every other field, emits the same outputs, and the two states still agree below the
lengths, so that the next step does not depend on those bytes either. -/
def Obligations.StaleBufferBytesNeverMatter : Prop :=
  ∀ (s t : State) (rx tx : Memory),
    (∀ a, a < s.rxLen → rx.read? a = s.rxBuf.read? a) → (∀ a, a < s.txLen → tx.read? a = s.txBuf.read? a) →
    step s = .next t →
    ∃ t', step { s with rxBuf := rx, txBuf := tx } = .next t' ∧
      t' = { t with rxBuf := t'.rxBuf, txBuf := t'.txBuf } ∧
      (∀ a, a < t.rxLen → t'.rxBuf.read? a = t.rxBuf.read? a) ∧
      (∀ a, a < t.txLen → t'.txBuf.read? a = t.txBuf.read? a)

/-- Every event adds one entry to the trace: the event, what it emitted, and the levels of the state it leaves: DE, RX_EN (1 if
and only if MODE = RECEIVING, R38), the CRC unit's outputs and the status port (R41; the form is the model's, log 7). -/
def Obligations.TraceShowsTheLevelsAfterEveryEvent : Prop :=
  ∀ (s t : State) (e : Event) (rest : List Event), s.inputs = e :: rest → step s = .next t →
    t.inputs = rest ∧ t.out = [] ∧
    ∃ outs, t.trace = s.trace ++
      [⟨e, outs, ⟨t.de, decide (t.mode = .receiving), t.crcReg, crcWire t.params.crcWireOrder t.crcReg,
        [regRead t 0, regRead t 1, regRead t 2, regRead t 3, regRead t 4, regRead t 5, regRead t 6, regRead t 7, regRead t 8,
          regRead t 9]⟩⟩]

/-- At most one hand-off is in flight (R41, R195), provided the environment does not reset the block in the middle of a
transmission without resetting the transmitter with it (R243; the transmitter's list is the model's, log 8). -/
def Obligations.AtMostOneHandOffInFlight : Prop :=
  ∀ s t : State, OneInFlight s → ((∃ rest, s.inputs = .reset :: rest) → s.mode = .receiving) → step s = .next t →
    OneInFlight t

/-! ### The framer (44_rtu_framer.md) -/

/-- R181, R182: a byte in RECEIVING is written at RX_LEN, or, when the buffer already holds P_BUF_SIZE bytes, at index 0 with
the wrap counted; every other byte of RX_BUF and every other field is as before. -/
def Obligations.ByteIsAppendedOrWraps : Prop :=
  ∀ (s : State) (b : Byte) (now : Time) (rest : List Event), s.inputs = .byte b now :: rest → s.mode = .receiving →
    0 < s.params.bufSize → s.rxLen ≤ s.params.bufSize →
    ∃ t, step s = .next t ∧ t.lastRxTime = now ∧ Silent s t (.byte b now) ∧
      SameBlock { s with rxBuf := t.rxBuf, rxLen := t.rxLen, lastRxTime := t.lastRxTime, ovfCnt := t.ovfCnt } t ∧
      (if s.rxLen = s.params.bufSize then
        t.rxBuf.read? 0 = some b ∧ (∀ a, a ≠ 0 → t.rxBuf.read? a = s.rxBuf.read? a) ∧ t.rxLen = 1 ∧
          t.ovfCnt = s.ovfCnt + 1#16
      else
        t.rxBuf.read? s.rxLen = some b ∧ (∀ a, a ≠ s.rxLen → t.rxBuf.read? a = s.rxBuf.read? a) ∧
          t.rxLen = s.rxLen + 1 ∧ t.ovfCnt = s.ovfCnt)

/-- R183: a byte in TRANSMITTING has no effect. -/
def Obligations.ByteIsLostWhileTransmitting : Prop :=
  ∀ (s : State) (b : Byte) (now : Time) (rest : List Event), s.inputs = .byte b now :: rest → s.mode = .transmitting →
    ∃ t, step s = .next t ∧ SameBlock s t ∧ Silent s t (.byte b now)

/-- A burst of bytes into an empty buffer is held in order from index 0 on, up to the capacity, with the last byte's time
(R25, R26, R181). -/
def Obligations.BurstIsHeldInOrder : Prop :=
  ∀ (s : State) (bs : List (Byte × Time)) (last : Byte × Time) (rest : List Event),
    s.inputs = byteEvents (bs ++ [last]) ++ rest → s.mode = .receiving → s.rxLen = 0 →
    bs.length + 1 ≤ s.params.bufSize →
    ∃ t, core.run (bs.length + 1) s = .next t ∧ t.inputs = rest ∧ t.rxLen = bs.length + 1 ∧
      t.lastRxTime = last.2 ∧ t.rxBuf.slice 0 (bs.length + 1) = .ok ((bs ++ [last]).map Prod.fst) ∧
      SameBlock { s with rxBuf := t.rxBuf, rxLen := t.rxLen, lastRxTime := t.lastRxTime } t

/-- R185: a poll in TRANSMITTING, with an empty buffer, or with no more silence than the threshold, has no effect. -/
def Obligations.PollWithoutAFrameEndDoesNothing : Prop :=
  ∀ (s : State) (now : Time) (rest : List Event), s.inputs = .poll now :: rest →
    (s.mode = .transmitting ∨ s.rxLen = 0 ∨ ¬SilenceExceeded now s) →
    ∃ t, step s = .next t ∧ SameBlock s t ∧ Silent s t (.poll now)

/-- R186, R187, R188: the three gates in their order. A frame that fails one is dropped: RX_LEN is 0, nothing is transmitted,
no request is made, and only the CRC drop counts. -/
def Obligations.GatesDropInOrder : Prop :=
  ∀ (s : State) (now : Time) (rest : List Event) (f : List Byte), FrameEndsAt s now rest f →
    (f.length ≤ s.params.minFrameLen →
      ∃ t, step s = .next t ∧ SameBlock { s with rxLen := 0 } t ∧ Silent s t (.poll now)) ∧
    (s.params.minFrameLen < f.length → f.head? ≠ some s.cfgSlaveAddr →
      ∃ t, step s = .next t ∧ SameBlock { s with rxLen := 0 } t ∧ Silent s t (.poll now)) ∧
    (s.params.minFrameLen < f.length → f.head? = some s.cfgSlaveAddr → crcOk s.params.crcWireOrder f = false →
      ∃ t, step s = .next t ∧ SameBlock { s with rxLen := 0, crcErrCnt := s.crcErrCnt + 1#16 } t ∧
        Silent s t (.poll now))

/-- A step runs the decoded instruction: when a poll ends a frame that passes the three gates, and its PDU decodes to `i`, the
step is `exec i` with the event delivered before it and recorded after it (R189, R190, R193). -/
def Obligations.AcceptedFrameRunsItsRequest : Prop :=
  ∀ (s : State) (now : Time) (rest : List Event) (p : List Byte) (i : Instr),
    FrameEndsAt s now rest (s.cfgSlaveAddr :: p ++ crcWire s.params.crcWireOrder (crc16 (s.cfgSlaveAddr :: p))) →
    s.params.minFrameLen < p.length + 3 → decode s.cfgFuncEn p = .ok i →
    step s = andThen (exec i (deliver rest s)) fun t => .next (closeEvent (.poll now) t)

/-- R202: every frame that passes the three gates gets exactly one `Transmit`, of 5 to 255 bytes; every frame that fails one
gets none and no data-model request. -/
def Obligations.OneResponsePerAcceptedFrame : Prop :=
  ∀ (s : State) (now : Time) (rest : List Event) (f : List Byte), BlockInv s → FrameEndsAt s now rest f →
    ∃ t outs lv, step s = .next t ∧ t.trace = s.trace ++ [⟨.poll now, outs, lv⟩] ∧
      (if s.params.minFrameLen < f.length ∧ f.head? = some s.cfgSlaveAddr ∧ crcOk s.params.crcWireOrder f = true then
        t.mode = .transmitting ∧
          ∃ (rs : List DMRequest) (q : List Byte),
            outs = rs.map .dmRequest ++ [.transmit q] ∧ 5 ≤ q.length ∧ q.length ≤ 255 ∧
              t.txBuf.slice 0 t.txLen = .ok q
      else outs = [] ∧ t.mode = .receiving ∧ t.dm = s.dm)

/-- R196, R197: the transmit completion, with any status. -/
def Obligations.CompletionEndsOnlyATransmission : Prop :=
  ∀ (s : State) (now : Time) (st : TxStatus) (rest : List Event), s.inputs = .txDone now st :: rest →
    (s.mode = .transmitting →
      ∃ t, step s = .next t ∧
        SameBlock { s with de := false, lastTxTime := now, mode := .receiving, rxLen := 0 } t) ∧
    (s.mode = .receiving → ∃ t, step s = .next t ∧ SameBlock s t)

/-- R198, R199: the receive error. -/
def Obligations.ReceiveErrorDiscardsOnlyAPartialFrame : Prop :=
  ∀ (s : State) (rest : List Event), s.inputs = .rxErr :: rest →
    (s.mode = .receiving → ∃ t, step s = .next t ∧ SameBlock { s with rxLen := 0, de := false } t ∧ Silent s t .rxErr) ∧
    (s.mode = .transmitting → ∃ t, step s = .next t ∧ SameBlock s t ∧ Silent s t .rxErr)

/-- A well-formed request whose frame the bus sends into an idle block, followed by a poll after the silence, is
served: the run of bytes and poll ends as `exec` of that request ends, in the data model, the transmit buffer and the
hand-off. -/
def Obligations.SentRequestIsServed : Prop :=
  ∀ (s : State) (i : Instr) (bs : List (Byte × Time)) (now : Time) (rest : List Event),
    BlockInv s → s.mode = .receiving → s.rxLen = 0 → i.wellFormed s.cfgFuncEn = true →
    bs.map Prod.fst = s.cfgSlaveAddr :: encode i ++ crcWire s.params.crcWireOrder (crc16 (s.cfgSlaveAddr :: encode i)) →
    s.params.minFrameLen < bs.length → bs.length ≤ s.params.bufSize →
    (∀ last, bs.getLast? = some last → s.cfgTSilence.toNat < (now.toNat + (2 ^ 32 - last.2.toNat)) % 2 ^ 32) →
    s.inputs = byteEvents bs ++ .poll now :: rest →
    ∃ t u, core.run (bs.length + 1) s = .next t ∧ exec i s = .next u ∧
      t.mode = .transmitting ∧ t.de = true ∧ t.dm = u.dm ∧ t.txBuf = u.txBuf ∧ t.txLen = u.txLen ∧
      t.txInFlight = u.txInFlight ∧ t.inputs = rest

/-! ### The dispatcher and the function codes (41_pdu_dispatch.md, 42_pdu_read.md, 43_pdu_write.md) -/

/-- Every instruction, on every operand, answers a next state in which its response has been composed and handed off and the
data model's requests made; the block's other fields are as before (R120, R132). -/
def Obligations.EveryInstructionOnlyRespondsAndCallsTheDataModel : Prop :=
  ∀ (i : Instr) (s : State), 255 ≤ s.params.txbufSize →
    ∃ t, exec i s = .next t ∧
      Responded s (responsePdu i.fc (dispatchWith DMState.model i s.dm)) (dispatchWith DMState.model i s.dm).requests
        (dispatchWith DMState.model i s.dm).dm t

/-- R128, R129: the exception-response encoder. For any function code and exception code, taking the exception answers a next
state in which TX_BUF holds the 5-byte frame: the configured address, the function code with bit 7 set, the code, and the
CRC suffix of those three bytes. -/
def Obligations.TakingAnExceptionSendsTheFiveByteFrame : Prop :=
  ∀ (s : State) (fc code : Byte), 5 ≤ s.params.txbufSize →
    ∃ t, takeException fc code s = .next t ∧ Responded s [fc ||| 0x80#8, code] [] s.dm t ∧ t.txLen = 5 ∧
      t.txBuf.slice 0 5 = .ok ([s.cfgSlaveAddr, fc ||| 0x80#8, code] ++
        crcWire s.params.crcWireOrder (crc16 [s.cfgSlaveAddr, fc ||| 0x80#8, code]))

/-- R127: a code that is not enabled, whatever bytes follow, decodes to ILLEGAL_FUNCTION, which answers exception code 1 and
makes no data-model request. -/
def Obligations.IllegalFunctionAnswersCodeOne : Prop :=
  ∀ (s : State) (fc : Byte) (payload : List Byte), enabled s.cfgFuncEn fc = false → 5 ≤ s.params.txbufSize →
    decode s.cfgFuncEn (fc :: payload) = .ok (.illegalFunction fc payload) ∧
    ∃ t, exec (.illegalFunction fc payload) s = .next t ∧ Responded s [fc ||| 0x80#8, 1#8] [] s.dm t

/-- R140: READ_COILS, every form: short, bad count, range past 0xFFFF, the data model's failure, and success. -/
def Obligations.ReadCoilsFollowsItsRule : Prop :=
  ∀ (s : State) (a : ReadArgs), 255 ≤ s.params.txbufSize →
    ∃ t, exec (.readCoils a) s = .next t ∧
      match a with
      | .short _ => Responded s [0x81#8, 3#8] [] s.dm t
      | .full start count _ =>
        if count.toNat < 1 ∨ 2000 < count.toNat then Responded s [0x81#8, 3#8] [] s.dm t
        else if 0x10000 < start.toNat + count.toNat then Responded s [0x81#8, 2#8] [] s.dm t
        else
          let r := s.dm.readBits .coils start count.toNat
          if r.1.st = 0#2 then
            Responded s ([0x01#8, BitVec.ofNat 8 ((count.toNat + 7) / 8)] ++ packBits r.1.vals)
              [.rdBits .coils start count.toNat] r.2 t
          else Responded s [0x81#8, r.1.st.setWidth 8] [.rdBits .coils start count.toNat] r.2 t

/-- R141: READ_DISCRETE_INPUTS, every form. -/
def Obligations.ReadDiscreteInputsFollowsItsRule : Prop :=
  ∀ (s : State) (a : ReadArgs), 255 ≤ s.params.txbufSize →
    ∃ t, exec (.readDiscreteInputs a) s = .next t ∧
      match a with
      | .short _ => Responded s [0x82#8, 3#8] [] s.dm t
      | .full start count _ =>
        if count.toNat < 1 ∨ 2000 < count.toNat then Responded s [0x82#8, 3#8] [] s.dm t
        else if 0x10000 < start.toNat + count.toNat then Responded s [0x82#8, 2#8] [] s.dm t
        else
          let r := s.dm.readBits .discreteInputs start count.toNat
          if r.1.st = 0#2 then
            Responded s ([0x02#8, BitVec.ofNat 8 ((count.toNat + 7) / 8)] ++ packBits r.1.vals)
              [.rdBits .discreteInputs start count.toNat] r.2 t
          else Responded s [0x82#8, r.1.st.setWidth 8] [.rdBits .discreteInputs start count.toNat] r.2 t

/-- R144: READ_HOLDING_REGISTERS, every form. -/
def Obligations.ReadHoldingRegistersFollowsItsRule : Prop :=
  ∀ (s : State) (a : ReadArgs), 255 ≤ s.params.txbufSize →
    ∃ t, exec (.readHoldingRegisters a) s = .next t ∧
      match a with
      | .short _ => Responded s [0x83#8, 3#8] [] s.dm t
      | .full start count _ =>
        if count.toNat < 1 ∨ 125 < count.toNat then Responded s [0x83#8, 3#8] [] s.dm t
        else if 0x10000 < start.toNat + count.toNat then Responded s [0x83#8, 2#8] [] s.dm t
        else
          let r := s.dm.readRegs .holdingRegisters start count.toNat
          if r.1.st = 0#2 then
            Responded s ([0x03#8, BitVec.ofNat 8 (2 * count.toNat)] ++ packWords r.1.vals)
              [.rdRegs .holdingRegisters start count.toNat] r.2 t
          else Responded s [0x83#8, r.1.st.setWidth 8] [.rdRegs .holdingRegisters start count.toNat] r.2 t

/-- R145: READ_INPUT_REGISTERS, every form. -/
def Obligations.ReadInputRegistersFollowsItsRule : Prop :=
  ∀ (s : State) (a : ReadArgs), 255 ≤ s.params.txbufSize →
    ∃ t, exec (.readInputRegisters a) s = .next t ∧
      match a with
      | .short _ => Responded s [0x84#8, 3#8] [] s.dm t
      | .full start count _ =>
        if count.toNat < 1 ∨ 125 < count.toNat then Responded s [0x84#8, 3#8] [] s.dm t
        else if 0x10000 < start.toNat + count.toNat then Responded s [0x84#8, 2#8] [] s.dm t
        else
          let r := s.dm.readRegs .inputRegisters start count.toNat
          if r.1.st = 0#2 then
            Responded s ([0x04#8, BitVec.ofNat 8 (2 * count.toNat)] ++ packWords r.1.vals)
              [.rdRegs .inputRegisters start count.toNat] r.2 t
          else Responded s [0x84#8, r.1.st.setWidth 8] [.rdRegs .inputRegisters start count.toNat] r.2 t

/-- R160: WRITE_SINGLE_COIL, every form; the data model receives one bit. -/
def Obligations.WriteSingleCoilFollowsItsRule : Prop :=
  ∀ (s : State) (a : WriteArgs), 255 ≤ s.params.txbufSize →
    ∃ t, exec (.writeSingleCoil a) s = .next t ∧
      match a with
      | .short _ => Responded s [0x85#8, 3#8] [] s.dm t
      | .full addr value _ =>
        if value ≠ 0x0000#16 ∧ value ≠ 0xFF00#16 then Responded s [0x85#8, 3#8] [] s.dm t
        else
          let v := decide (value = 0xFF00#16)
          let r := s.dm.writeCoil addr v
          if r.1 = 0#2 then
            Responded s [0x05#8, hiByte addr, loByte addr, hiByte value, loByte value] [.wrCoil addr v] r.2 t
          else Responded s [0x85#8, r.1.setWidth 8] [.wrCoil addr v] r.2 t

/-- R161: WRITE_SINGLE_REGISTER, every form. -/
def Obligations.WriteSingleRegisterFollowsItsRule : Prop :=
  ∀ (s : State) (a : WriteArgs), 255 ≤ s.params.txbufSize →
    ∃ t, exec (.writeSingleRegister a) s = .next t ∧
      match a with
      | .short _ => Responded s [0x86#8, 3#8] [] s.dm t
      | .full addr value _ =>
        let r := s.dm.writeReg addr value
        if r.1 = 0#2 then
          Responded s [0x06#8, hiByte addr, loByte addr, hiByte value, loByte value] [.wrReg addr value] r.2 t
        else Responded s [0x86#8, r.1.setWidth 8] [.wrReg addr value] r.2 t

/-- R162: WRITE_MULTIPLE_COILS, every form; the loop is the one of WriteLoopStopsAtTheFirstFailure. -/
def Obligations.WriteMultipleCoilsFollowsItsRule : Prop :=
  ∀ (s : State) (a : MultiArgs), 255 ≤ s.params.txbufSize →
    ∃ t, exec (.writeMultipleCoils a) s = .next t ∧
      match a with
      | .short _ => Responded s [0x8F#8, 3#8] [] s.dm t
      | .full start count bc data =>
        if count.toNat < 1 ∨ 1968 < count.toNat then Responded s [0x8F#8, 3#8] [] s.dm t
        else if bc.toNat ≠ (count.toNat + 7) / 8 then Responded s [0x8F#8, 3#8] [] s.dm t
        else if 6 + data.length < 6 + bc.toNat then Responded s [0x8F#8, 3#8] [] s.dm t
        else if 0x10000 < start.toNat + count.toNat then Responded s [0x8F#8, 2#8] [] s.dm t
        else
          let r := writeLoop DMState.writeCoil .wrCoil start 0
            ((List.range count.toNat).map fun i => (data.getD (i / 8) 0#8).getLsbD (i % 8)) s.dm
          if r.1 = 0#2 then
            Responded s [0x0F#8, hiByte start, loByte start, hiByte count, loByte count] r.2.1 r.2.2 t
          else Responded s [0x8F#8, r.1.setWidth 8] r.2.1 r.2.2 t

/-- R164: WRITE_MULTIPLE_REGISTERS, every form; the loop is the one of WriteLoopStopsAtTheFirstFailure. -/
def Obligations.WriteMultipleRegistersFollowsItsRule : Prop :=
  ∀ (s : State) (a : MultiArgs), 255 ≤ s.params.txbufSize →
    ∃ t, exec (.writeMultipleRegisters a) s = .next t ∧
      match a with
      | .short _ => Responded s [0x90#8, 3#8] [] s.dm t
      | .full start count bc data =>
        if count.toNat < 1 ∨ 123 < count.toNat then Responded s [0x90#8, 3#8] [] s.dm t
        else if bc.toNat ≠ 2 * count.toNat then Responded s [0x90#8, 3#8] [] s.dm t
        else if 6 + data.length < 6 + bc.toNat then Responded s [0x90#8, 3#8] [] s.dm t
        else if 0x10000 < start.toNat + count.toNat then Responded s [0x90#8, 2#8] [] s.dm t
        else
          let r := writeLoop DMState.writeReg .wrReg start 0
            ((List.range count.toNat).map fun i => data.getD (2 * i) 0#8 ++ data.getD (2 * i + 1) 0#8) s.dm
          if r.1 = 0#2 then
            Responded s [0x10#8, hiByte start, loByte start, hiByte count, loByte count] r.2.1 r.2.2 t
          else Responded s [0x90#8, r.1.setWidth 8] r.2.1 r.2.2 t

/-- R165: the writes of FC15 and FC16 go in ascending order and stop at the first failure. There is a point `k` and the data
model's states `ds 0`, `ds 1`, ... such that the first `k` writes succeed one after the other; either these are all, or
write `k` fails with the loop's status, and no later request is made. The earlier writes stay. -/
def Obligations.WriteLoopStopsAtTheFirstFailure : Prop :=
  ∀ (σ α : Type) (write : Word → α → σ → Status × σ) (request : Word → α → DMRequest) (start : Word) (vs : List α)
    (d : σ),
    ∃ (k : Nat) (ds : Nat → σ), ds 0 = d ∧ k ≤ vs.length ∧
      (∀ j v, j < k → vs[j]? = some v → write (BitVec.ofNat 16 (start.toNat + j)) v (ds j) = (0#2, ds (j + 1))) ∧
      ((k = vs.length ∧ (writeLoop write request start 0 vs d).1 = 0#2 ∧
          (writeLoop write request start 0 vs d).2.2 = ds k ∧
          (writeLoop write request start 0 vs d).2.1 =
            vs.mapIdx fun j v => request (BitVec.ofNat 16 (start.toNat + j)) v) ∨
       (∃ v, vs[k]? = some v ∧ (writeLoop write request start 0 vs d).1 ≠ 0#2 ∧
          write (BitVec.ofNat 16 (start.toNat + k)) v (ds k) =
            ((writeLoop write request start 0 vs d).1, (writeLoop write request start 0 vs d).2.2) ∧
          (writeLoop write request start 0 vs d).2.1 =
            (vs.take (k + 1)).mapIdx fun j v => request (BitVec.ofNat 16 (start.toNat + j)) v))

/-- R142: PackBits puts point `i` in bit `i mod 8` of byte `i div 8`, in `ceil8(count)` bytes, with the unused bits 0. -/
def Obligations.PackBitsPlacesEveryPoint : Prop :=
  ∀ bits : List Bool, (packBits bits).length = (bits.length + 7) / 8 ∧
    (∀ i b, bits[i]? = some b → ∃ v, (packBits bits)[i / 8]? = some v ∧ v.getLsbD (i % 8) = b) ∧
    (∀ i v, bits.length ≤ i → (packBits bits)[i / 8]? = some v → v.getLsbD (i % 8) = false)

/-- R163: coil `i` of an FC15 request is bit 0 of data byte `i div 8` shifted right by `i mod 8`, which is the order a read
packs in: the coil values of packed points are those points, whatever bytes follow. No other bit of the data is read. -/
def Obligations.UnpackedCoilsAreThePackedPoints : Prop :=
  (∀ (data : List Byte) (i : Nat), coilBit data i = (((data.getD (i / 8) 0#8) >>> (i % 8)) &&& 1#8 == 1#8)) ∧
  (∀ (bits : List Bool) (rest : List Byte), coilValues (packBits bits ++ rest) bits.length = bits) ∧
  (∀ (data data' : List Byte) (count : Nat),
    (∀ i, i < count → (data.getD (i / 8) 0#8).getLsbD (i % 8) = (data'.getD (i / 8) 0#8).getLsbD (i % 8)) →
    coilValues data count = coilValues data' count)

/-- R146: PackWords puts word `i` in bytes `2i` and `2i + 1`, high byte first; and an FC16 request reads words back in that
order. -/
def Obligations.PackWordsIsBigEndian : Prop :=
  ∀ ws : List Word, (packWords ws).length = 2 * ws.length ∧
    (∀ i w, ws[i]? = some w →
      (packWords ws)[2 * i]? = some (w.extractLsb' 8 8) ∧ (packWords ws)[2 * i + 1]? = some (w.extractLsb' 0 8)) ∧
    (∀ rest : List Byte, regValues (packWords ws ++ rest) ws.length = ws)

/-- R124: bytes beyond the last one a function reads change nothing: after the fields of formats A and B, and after the `bc`
data bytes of format C. -/
def Obligations.TrailingBytesAreIgnored : Prop :=
  ∀ s : State,
    (∀ (f1 f2 : Word) (rest : List Byte),
      exec (.readCoils (.full f1 f2 rest)) s = exec (.readCoils (.full f1 f2 [])) s ∧
      exec (.readDiscreteInputs (.full f1 f2 rest)) s = exec (.readDiscreteInputs (.full f1 f2 [])) s ∧
      exec (.readHoldingRegisters (.full f1 f2 rest)) s = exec (.readHoldingRegisters (.full f1 f2 [])) s ∧
      exec (.readInputRegisters (.full f1 f2 rest)) s = exec (.readInputRegisters (.full f1 f2 [])) s ∧
      exec (.writeSingleCoil (.full f1 f2 rest)) s = exec (.writeSingleCoil (.full f1 f2 [])) s ∧
      exec (.writeSingleRegister (.full f1 f2 rest)) s = exec (.writeSingleRegister (.full f1 f2 [])) s) ∧
    (∀ (start count : Word) (bc : Byte) (data rest : List Byte), data.length = bc.toNat →
      exec (.writeMultipleCoils (.full start count bc (data ++ rest))) s =
        exec (.writeMultipleCoils (.full start count bc data)) s ∧
      exec (.writeMultipleRegisters (.full start count bc (data ++ rest))) s =
        exec (.writeMultipleRegisters (.full start count bc data)) s)

/-- The plain-data data model of State leaves no data model out. For every data model, in every state of it, and
every request, some list of answers fixed in advance makes State's data model give the same result by the same requests, so
a claim for every state of this model is a claim for every data model (R55; log 2). -/
def Obligations.EveryDataModelIsCovered : Prop :=
  ∀ (σ : Type) (dm : DataModel σ) (i : Instr) (d : σ) (base : DMState),
    ∃ script : List DMAnswer,
      (dispatchWith DMState.model i { base with script := script }).result = (dispatchWith dm i d).result ∧
      (dispatchWith DMState.model i { base with script := script }).requests = (dispatchWith dm i d).requests ∧
      (dispatchWith DMState.model i { base with script := script }).dm = { base with script := [] }

/-! ### The stored data model (20_memory.md R58; log 16) -/

/-- A read inside the configured range, with no answer fixed in advance, completes with the stored values of its points in
ascending order, and changes nothing in the data model: FC1 to FC4. -/
def Obligations.ReadsAnswerTheStoredPoints : Prop :=
  ∀ (s : State) (start count : Word) (rest : List Byte), 255 ≤ s.params.txbufSize → s.dm.script = [] →
    1 ≤ count.toNat → start.toNat + count.toNat ≤ 0x10000 →
    (count.toNat ≤ 2000 → (s.dm.bitSpace .coils).contains start.toNat count.toNat = true →
      ∃ t, exec (.readCoils (.full start count rest)) s = .next t ∧
        Responded s ([0x01#8, BitVec.ofNat 8 ((count.toNat + 7) / 8)] ++ packBits ((List.range count.toNat).map fun i =>
          (Cells.get? (s.dm.bitSpace .coils).cells (start.toNat + i)).getD false))
          [.rdBits .coils start count.toNat] s.dm t) ∧
    (count.toNat ≤ 2000 → (s.dm.bitSpace .discreteInputs).contains start.toNat count.toNat = true →
      ∃ t, exec (.readDiscreteInputs (.full start count rest)) s = .next t ∧
        Responded s ([0x02#8, BitVec.ofNat 8 ((count.toNat + 7) / 8)] ++ packBits ((List.range count.toNat).map fun i =>
          (Cells.get? (s.dm.bitSpace .discreteInputs).cells (start.toNat + i)).getD false))
          [.rdBits .discreteInputs start count.toNat] s.dm t) ∧
    (count.toNat ≤ 125 → (s.dm.regSpace .holdingRegisters).contains start.toNat count.toNat = true →
      ∃ t, exec (.readHoldingRegisters (.full start count rest)) s = .next t ∧
        Responded s ([0x03#8, BitVec.ofNat 8 (2 * count.toNat)] ++ packWords ((List.range count.toNat).map fun i =>
          (Cells.get? (s.dm.regSpace .holdingRegisters).cells (start.toNat + i)).getD 0#16))
          [.rdRegs .holdingRegisters start count.toNat] s.dm t) ∧
    (count.toNat ≤ 125 → (s.dm.regSpace .inputRegisters).contains start.toNat count.toNat = true →
      ∃ t, exec (.readInputRegisters (.full start count rest)) s = .next t ∧
        Responded s ([0x04#8, BitVec.ofNat 8 (2 * count.toNat)] ++ packWords ((List.range count.toNat).map fun i =>
          (Cells.get? (s.dm.regSpace .inputRegisters).cells (start.toNat + i)).getD 0#16))
          [.rdRegs .inputRegisters start count.toNat] s.dm t)

/-- A single write that the stored data model accepts completes with the echo, stores its value at its address and leaves
every other point of every space as it was: FC5 and FC6. -/
def Obligations.SingleWritesStoreThePoint : Prop :=
  ∀ (s : State) (addr value : Word) (rest : List Byte), 255 ≤ s.params.txbufSize → s.dm.script = [] → s.dm.wf = true →
    (value = 0x0000#16 ∨ value = 0xFF00#16 →
      s.dm.coils.writeStatus addr.toNat (if value = 0xFF00#16 then 1 else 0) = 0#2 →
      ∃ t d', exec (.writeSingleCoil (.full addr value rest)) s = .next t ∧
        Responded s [0x05#8, hiByte addr, loByte addr, hiByte value, loByte value]
          [.wrCoil addr (decide (value = 0xFF00#16))] d' t ∧
        d' = { s.dm with coils := { s.dm.coils with cells := d'.coils.cells } } ∧
        (∀ a, (Cells.get? d'.coils.cells a).getD false =
          if a = addr.toNat then decide (value = 0xFF00#16) else (Cells.get? s.dm.coils.cells a).getD false)) ∧
    (s.dm.holdingRegisters.writeStatus addr.toNat value.toNat = 0#2 →
      ∃ t d', exec (.writeSingleRegister (.full addr value rest)) s = .next t ∧
        Responded s [0x06#8, hiByte addr, loByte addr, hiByte value, loByte value] [.wrReg addr value] d' t ∧
        d' = { s.dm with holdingRegisters := { s.dm.holdingRegisters with cells := d'.holdingRegisters.cells } } ∧
        (∀ a, (Cells.get? d'.holdingRegisters.cells a).getD 0#16 =
          if a = addr.toNat then value else (Cells.get? s.dm.holdingRegisters.cells a).getD 0#16))

/-- A multiple write whose every point the stored data model accepts completes with the echo of function, start and count,
stores point `i` of the request at `start + i` for every `i` below the count, and leaves every other point as it was:
FC15 and FC16. -/
def Obligations.MultipleWritesStoreEveryPoint : Prop :=
  ∀ (s : State) (start count : Word) (bc : Byte) (data : List Byte), 255 ≤ s.params.txbufSize → s.dm.script = [] →
    s.dm.wf = true → 1 ≤ count.toNat → start.toNat + count.toNat ≤ 0x10000 → bc.toNat ≤ data.length →
    (count.toNat ≤ 1968 → bc.toNat = (count.toNat + 7) / 8 →
      (∀ i, i < count.toNat →
        s.dm.coils.writeStatus (start.toNat + i) ((data.getD (i / 8) 0#8).getLsbD (i % 8)).toNat = 0#2) →
      ∃ t d', exec (.writeMultipleCoils (.full start count bc data)) s = .next t ∧
        Responded s [0x0F#8, hiByte start, loByte start, hiByte count, loByte count]
          ((List.range count.toNat).map fun i =>
            .wrCoil (BitVec.ofNat 16 (start.toNat + i)) ((data.getD (i / 8) 0#8).getLsbD (i % 8))) d' t ∧
        d' = { s.dm with coils := { s.dm.coils with cells := d'.coils.cells } } ∧
        (∀ a, (Cells.get? d'.coils.cells a).getD false =
          if start.toNat ≤ a ∧ a < start.toNat + count.toNat then
            (data.getD ((a - start.toNat) / 8) 0#8).getLsbD ((a - start.toNat) % 8)
          else (Cells.get? s.dm.coils.cells a).getD false)) ∧
    (count.toNat ≤ 123 → bc.toNat = 2 * count.toNat →
      (∀ i, i < count.toNat →
        s.dm.holdingRegisters.writeStatus (start.toNat + i)
          (data.getD (2 * i) 0#8 ++ data.getD (2 * i + 1) 0#8).toNat = 0#2) →
      ∃ t d', exec (.writeMultipleRegisters (.full start count bc data)) s = .next t ∧
        Responded s [0x10#8, hiByte start, loByte start, hiByte count, loByte count]
          ((List.range count.toNat).map fun i =>
            .wrReg (BitVec.ofNat 16 (start.toNat + i)) (data.getD (2 * i) 0#8 ++ data.getD (2 * i + 1) 0#8)) d' t ∧
        d' = { s.dm with holdingRegisters := { s.dm.holdingRegisters with cells := d'.holdingRegisters.cells } } ∧
        (∀ a, (Cells.get? d'.holdingRegisters.cells a).getD 0#16 =
          if start.toNat ≤ a ∧ a < start.toNat + count.toNat then
            data.getD (2 * (a - start.toNat)) 0#8 ++ data.getD (2 * (a - start.toNat) + 1) 0#8
          else (Cells.get? s.dm.holdingRegisters.cells a).getD 0#16))

/-- What the stored data model refuses, by R58's contract: a read whose range exits the configured one, a write out of range or
to a point that denies it (IllegalAddress), a value that the point's hook rejects (IllegalValue). It then changes nothing. -/
def Obligations.StoredDataModelRefusesByContract : Prop :=
  ∀ d : DMState, d.script = [] →
    (∀ (sp : BitSpace) (a : Word) (n : Nat),
      (a.toNat < (d.bitSpace sp).base ∨ (d.bitSpace sp).base + (d.bitSpace sp).size < a.toNat + n) →
      (d.readBits sp a n).1.st = 2#2 ∧ (d.readBits sp a n).2 = d) ∧
    (∀ (sp : RegSpace) (a : Word) (n : Nat),
      (a.toNat < (d.regSpace sp).base ∨ (d.regSpace sp).base + (d.regSpace sp).size < a.toNat + n) →
      (d.readRegs sp a n).1.st = 2#2 ∧ (d.readRegs sp a n).2 = d) ∧
    (∀ (a : Word) (v : Bool),
      (a.toNat < d.coils.base ∨ d.coils.base + d.coils.size ≤ a.toNat ∨ a.toNat ∈ d.coils.readOnly) →
      d.writeCoil a v = (2#2, d)) ∧
    (∀ (a v : Word),
      (a.toNat < d.holdingRegisters.base ∨ d.holdingRegisters.base + d.holdingRegisters.size ≤ a.toNat ∨
        a.toNat ∈ d.holdingRegisters.readOnly) →
      d.writeReg a v = (2#2, d)) ∧
    (∀ (a v : Word) (limit : Nat),
      d.holdingRegisters.base ≤ a.toNat → a.toNat < d.holdingRegisters.base + d.holdingRegisters.size →
      a.toNat ∉ d.holdingRegisters.readOnly → (a.toNat, limit) ∈ d.holdingRegisters.limits → limit < v.toNat →
      d.writeReg a v = (3#2, d))

/-- R167 on the stored data model: two identical single-register or single-coil writes give two identical responses, and the
second leaves the data model as the first left it. -/
def Obligations.RepeatedWriteIsIdempotent : Prop :=
  ∀ (s : State) (a : WriteArgs) (i : Instr), 255 ≤ s.params.txbufSize → s.dm.script = [] → s.dm.wf = true →
    i = .writeSingleRegister a ∨ i = .writeSingleCoil a →
    ∃ t u q, exec i s = .next t ∧ exec i t = .next u ∧ u.dm = t.dm ∧
      t.txInFlight = s.txInFlight ++ [q] ∧ u.txInFlight = s.txInFlight ++ [q, q]
end

