-- ==== Sys2Proof/Laws/Bytes.lean ====
section
/-! SUPPORT. A word and its two bytes determine each other. -/

namespace Sys2Proof.Machine

@[simp] theorem be16_hiByte_loByte (w : Word) : be16 (hiByte w) (loByte w) = w := by
  apply BitVec.eq_of_getLsbD_eq
  intro i hi
  simp only [be16, hiByte, loByte, BitVec.getLsbD_append, BitVec.getLsbD_extractLsb']
  by_cases h8 : i < 8
  · simp [h8]
  · have h1 : i - 8 < 8 := by omega
    have h2 : 8 + (i - 8) = i := by omega
    simp [h8, h1, h2]

@[simp] theorem hiByte_be16 (a b : Byte) : hiByte (be16 a b) = a := by
  apply BitVec.eq_of_getLsbD_eq
  intro i hi
  simp only [be16, hiByte, BitVec.getLsbD_append, BitVec.getLsbD_extractLsb']
  have h8 : ¬8 + i < 8 := by omega
  simp [hi, h8]

@[simp] theorem loByte_be16 (a b : Byte) : loByte (be16 a b) = b := by
  apply BitVec.eq_of_getLsbD_eq
  intro i hi
  simp only [be16, loByte, BitVec.getLsbD_append, BitVec.getLsbD_extractLsb']
  simp [hi]

end Sys2Proof.Machine
end

