-- ==== Sys2Proof/Laws/Crc.lean ====
section
/-! SUPPORT. The CRC as an invertible linear register: shifting out a cleared low byte, and what one byte contributes. -/

namespace Sys2Proof.Machine

@[simp] theorem crcWire_length (order : CrcOrder) (r : Word) : (crcWire order r).length = 2 := by
  cases order <;> rfl

theorem crc16_append (p q : List Byte) : crc16 (p ++ q) = q.foldl crcStep (crc16 p) := by
  simp [crc16, List.foldl_append]

@[simp] theorem crc16_nil : crc16 [] = crcInitValue := rfl

/-- The suffix determines the CRC. -/
theorem crcWire_injective (order : CrcOrder) {r r' : Word} (h : crcWire order r = crcWire order r') : r = r' := by
  have key : ∀ w : Word, hiByte w ++ loByte w = w := fun w => by
    apply BitVec.eq_of_getLsbD_eq
    intro i hi
    simp only [hiByte, loByte, BitVec.getLsbD_append, BitVec.getLsbD_extractLsb']
    by_cases h8 : i < 8
    · simp [h8]
    · have h1 : i - 8 < 8 := by omega
      have h2 : 8 + (i - 8) = i := by omega
      simp [h8, h1, h2]
  cases order <;> simp only [crcWire, List.cons.injEq, and_true] at h
  · rw [← key r, ← key r', h.1, h.2]
  · rw [← key r, ← key r', h.1, h.2]

/-- One iteration loses nothing: the xor with the polynomial marks the bit shifted out, since its top bit is 1. -/
theorem crcShift_injective {r r' : Word} (h : crcShift r = crcShift r') : r = r' := by
  have top : ∀ w : Word, (crcShift w).getLsbD 15 = w.getLsbD 0 := fun w => by
    unfold crcShift
    split <;> rename_i hw
    · simp [crcPoly, hw]
    · rw [Bool.not_eq_true] at hw
      rw [hw]
      simp
  have low : r.getLsbD 0 = r'.getLsbD 0 := by rw [← top, ← top, h]
  have hshift : r >>> 1 = r' >>> 1 := by
    unfold crcShift at h
    rw [low] at h
    split at h
    · exact (BitVec.xor_left_inj (crcPoly)).mp h
    · exact h
  apply BitVec.eq_of_getLsbD_eq
  intro i hi
  cases i with
  | zero => exact low
  | succ i =>
    have := congrArg (fun w : Word => w.getLsbD i) hshift
    simpa [BitVec.getLsbD_ushiftRight, Nat.add_comm] using this

theorem crcShift_repeat_injective : ∀ (n : Nat) {r r' : Word}, Nat.repeat crcShift n r = Nat.repeat crcShift n r' → r = r'
  | 0, _, _, h => h
  | n + 1, _, _, h => crcShift_repeat_injective n (crcShift_injective h)

/-- For one byte, different registers stay different. -/
theorem crcStep_injective_reg (b : Byte) {r r' : Word} (h : crcStep r b = crcStep r' b) : r = r' :=
  (BitVec.xor_left_inj _).mp (crcShift_repeat_injective 8 h)

/-- For one register, different bytes give different registers. -/
theorem crcStep_injective_byte (r : Word) {b b' : Byte} (h : crcStep r b = crcStep r b') : b = b' := by
  have hx : b.setWidth 16 = b'.setWidth 16 := (BitVec.xor_right_inj _).mp (crcShift_repeat_injective 8 h)
  have h8 := congrArg (fun w : Word => w.setWidth 8) hx
  simpa using h8

theorem foldl_crcStep_injective (p : List Byte) : ∀ {r r' : Word}, p.foldl crcStep r = p.foldl crcStep r' → r = r' := by
  induction p with
  | nil => intro r r' h; exact h
  | cons b p ih => intro r r' h; exact crcStep_injective_reg b (ih h)

/-- Shifting zeros out only shifts. -/
theorem crcShift_repeat_of_low_zero : ∀ (n : Nat) (r : Word), (∀ i, i < n → r.getLsbD i = false) →
    Nat.repeat crcShift n r = r >>> n
  | 0, r, _ => by simp [Nat.repeat]
  | n + 1, r, h => by
    rw [Nat.repeat, crcShift_repeat_of_low_zero n r fun i hi => h i (by omega)]
    have h0 : (r >>> n).getLsbD 0 = false := by simpa using h n (by omega)
    simp only [crcShift, h0, Bool.false_eq_true, if_false]
    rw [← BitVec.shiftRight_add]

/-- Folding in a register's own low byte moves its high byte down. -/
theorem crcStep_loByte (r : Word) : crcStep r (loByte r) = r >>> 8 := by
  unfold crcStep
  rw [crcShift_repeat_of_low_zero]
  · apply BitVec.eq_of_getLsbD_eq
    intro i hi
    simp [loByte]
  · intro i hi
    simp [loByte, hi]
    omega

end Sys2Proof.Machine
end

