-- ==== Sys2Proof/Laws/Memory.lean ====
section
/-! SUPPORT. Sparse memories: what a read gives after a write, slices of what was written, and the canonical form kept by
every operation. -/

namespace Sys2Proof.Machine

/-! ### Reads after writes -/

theorem Cells.get?_put {α : Type} (m : List (Nat × α)) (a : Nat) (v : α) (b : Nat) :
    Cells.get? (Cells.put m a v) b = if a = b then some v else Cells.get? m b := by
  induction m with
  | nil => simp [Cells.put, Cells.get?]
  | cons c m ih =>
    obtain ⟨k, w⟩ := c
    by_cases hlt : a < k
    · simp [Cells.put, Cells.get?, hlt]
    · by_cases heq : a = k
      · subst heq
        by_cases hb : a = b <;> simp [Cells.put, Cells.get?, hb]
      · by_cases hkb : k = b
        · subst hkb
          simp [Cells.put, Cells.get?, hlt, heq]
        · simp [Cells.put, Cells.get?, hlt, heq, hkb, ih]

@[simp] theorem Memory.read?_write_same (m : Memory) (a : Nat) (b : Byte) : (m.write a b).read? a = some b := by
  simp [Memory.write, Memory.read?, Cells.get?_put]

theorem Memory.read?_write_other (m : Memory) {a a' : Nat} (b : Byte) (h : a ≠ a') :
    (m.write a b).read? a' = m.read? a' := by
  simp [Memory.write, Memory.read?, Cells.get?_put, h]

theorem Memory.read?_write (m : Memory) (a a' : Nat) (b : Byte) :
    (m.write a b).read? a' = if a = a' then some b else m.read? a' := Cells.get?_put m a b a'

/-- A read inside the bytes written gives them; a read outside gives what was there. -/
theorem Memory.read?_writeAll (bs : List Byte) : ∀ (m : Memory) (a x : Nat),
    (m.writeAll a bs).read? x = if a ≤ x ∧ x < a + bs.length then bs[x - a]? else m.read? x := by
  induction bs with
  | nil =>
    intro m a x
    have h : ¬(a ≤ x ∧ x < a + ([] : List Byte).length) := by simp
    rw [if_neg h, Memory.writeAll]
  | cons b bs ih =>
    intro m a x
    rw [Memory.writeAll, ih, Memory.read?_write]
    by_cases hx : a = x
    · subst hx
      have h1 : ¬(a + 1 ≤ a ∧ a < a + 1 + bs.length) := by omega
      rw [if_neg h1]
      simp
    · by_cases hin : a + 1 ≤ x ∧ x < a + 1 + bs.length
      · have h2 : a ≤ x ∧ x < a + (b :: bs).length := by simp; omega
        have h3 : x - a = (x - (a + 1)) + 1 := by omega
        rw [if_pos hin, if_pos h2, h3, List.getElem?_cons_succ]
      · have h2 : ¬(a ≤ x ∧ x < a + (b :: bs).length) := by simp; omega
        rw [if_neg hin, if_neg h2, if_neg hx]

/-! ### Slices -/

theorem Memory.slice_congr {m m' : Memory} : ∀ (n a : Nat), (∀ x, a ≤ x → x < a + n → m.read? x = m'.read? x) →
    m.slice a n = m'.slice a n
  | 0, _, _ => rfl
  | n + 1, a, h => by
    rw [Memory.slice, Memory.slice, h a (Nat.le_refl a) (by omega),
      Memory.slice_congr n (a + 1) fun x h1 h2 => h x (by omega) (by omega)]

theorem Memory.slice_of_read? {m : Memory} (bs : List Byte) : ∀ (a : Nat),
    (∀ i, i < bs.length → m.read? (a + i) = bs[i]?) → m.slice a bs.length = .ok bs := by
  induction bs with
  | nil => intro a _; rfl
  | cons b bs ih =>
    intro a h
    have h0 : m.read? a = some b := by simpa using h 0 (by simp)
    have hs : m.slice (a + 1) bs.length = .ok bs := by
      refine ih (a + 1) fun i hi => ?_
      have := h (i + 1) (by simpa using hi)
      rwa [List.getElem?_cons_succ, ← Nat.add_assoc, Nat.add_right_comm] at this
    simp only [List.length_cons, Memory.slice, h0, hs]

/-- The slice of what was just written is what was written. -/
@[simp] theorem Memory.slice_writeAll (m : Memory) (a : Nat) (bs : List Byte) :
    (m.writeAll a bs).slice a bs.length = .ok bs := by
  refine Memory.slice_of_read? bs a fun i hi => ?_
  rw [Memory.read?_writeAll, if_pos (by omega), Nat.add_sub_cancel_left]

theorem Memory.slice_length {m : Memory} : ∀ {n a : Nat} {bs : List Byte}, m.slice a n = .ok bs → bs.length = n
  | 0, _, _, h => by
    simp only [Memory.slice, Except.ok.injEq] at h
    subst h
    rfl
  | n + 1, a, bs, h => by
    rw [Memory.slice] at h
    split at h
    · cases h
    · split at h
      · cases h
      · rename_i b _ bs' hs
        cases h
        simp [Memory.slice_length hs]

/-- Where every byte is held, the slice succeeds. -/
theorem Memory.slice_of_held {m : Memory} : ∀ (n a : Nat), (∀ x, a ≤ x → x < a + n → (m.read? x).isSome = true) →
    ∃ bs, m.slice a n = .ok bs
  | 0, _, _ => ⟨[], rfl⟩
  | n + 1, a, h => by
    obtain ⟨b, hb⟩ := Option.isSome_iff_exists.mp (h a (Nat.le_refl a) (by omega))
    obtain ⟨bs, hbs⟩ := Memory.slice_of_held n (a + 1) fun x h1 h2 => h x (by omega) (by omega)
    exact ⟨b :: bs, by simp only [Memory.slice, hb, hbs]⟩

theorem Memory.slice_of_heldBelow {m : Memory} {n : Nat} (h : m.heldBelow n) : ∃ bs, m.slice 0 n = .ok bs :=
  Memory.slice_of_held n 0 fun x _ hx => h x (by omega)

/-! ### The canonical form -/

@[simp] theorem Cells.above_none (k : Nat) : Cells.above none k = true := rfl

@[simp] theorem Cells.above_some (l k : Nat) : Cells.above (some l) k = decide (l < k) := rfl

theorem Cells.rising_none {α : Type} {m : List (Nat × α)} {lo : Option Nat} (h : Cells.rising lo m = true) :
    Cells.rising none m = true := by
  cases m with
  | nil => rfl
  | cons c m =>
    obtain ⟨k, v⟩ := c
    simp only [Cells.rising, Bool.and_eq_true] at h ⊢
    exact ⟨rfl, h.2⟩

theorem Cells.rising_put {α : Type} (m : List (Nat × α)) (a : Nat) (v : α) : ∀ lo : Option Nat,
    Cells.rising lo m = true → Cells.above lo a = true → Cells.rising lo (Cells.put m a v) = true := by
  induction m with
  | nil =>
    intro lo _ hlo
    simp [Cells.put, Cells.rising, hlo]
  | cons c m ih =>
    obtain ⟨k, w⟩ := c
    intro lo h hlo
    simp only [Cells.rising, Bool.and_eq_true] at h
    by_cases hlt : a < k
    · simp [Cells.put, Cells.rising, hlt, hlo, h.2]
    · by_cases heq : a = k
      · subst heq
        simp [Cells.put, Cells.rising, hlo, h.2]
      · have hk : Cells.above (some k) a = true := by simp [Cells.above]; omega
        simp [Cells.put, Cells.rising, hlt, heq, h.1, ih (some k) h.2 hk]

theorem Cells.rising_erase {α : Type} (m : List (Nat × α)) (a : Nat) : ∀ lo : Option Nat,
    Cells.rising lo m = true → Cells.rising lo (Cells.erase m a) = true := by
  induction m with
  | nil => intro lo h; exact h
  | cons c m ih =>
    obtain ⟨k, w⟩ := c
    intro lo h
    simp only [Cells.rising, Bool.and_eq_true] at h
    by_cases heq : k = a
    · simp only [Cells.erase, heq, if_true]
      cases m with
      | nil => rfl
      | cons c' m' =>
        obtain ⟨k', w'⟩ := c'
        simp only [Cells.rising, Bool.and_eq_true] at h ⊢
        refine ⟨?_, h.2.2⟩
        cases lo with
        | none => rfl
        | some l =>
          have h1 := h.1
          have h2 := h.2.1
          simp only [Cells.above, decide_eq_true_eq] at h1 h2 ⊢
          omega
    · simp [Cells.erase, heq, Cells.rising, h.1, ih (some k) h.2]

theorem Memory.wf_write {m : Memory} (h : m.wf = true) (a : Nat) (b : Byte) : (m.write a b).wf = true :=
  Cells.rising_put m a b none h rfl

theorem Memory.wf_writeAll (bs : List Byte) : ∀ {m : Memory}, m.wf = true → ∀ a, (m.writeAll a bs).wf = true := by
  induction bs with
  | nil => intro m h _; exact h
  | cons b bs ih => intro m h a; exact ih (Memory.wf_write h a b) (a + 1)

@[simp] theorem Memory.wf_nil : Memory.wf [] = true := rfl

@[simp] theorem Memory.read?_nil (a : Nat) : Memory.read? [] a = none := rfl

/-- An address below the first key of a rising list is not listed. -/
theorem Cells.get?_of_rising {α : Type} (m : List (Nat × α)) : ∀ (l a : Nat), Cells.rising (some l) m = true → a ≤ l →
    Cells.get? m a = none := by
  induction m with
  | nil => intro l a _ _; rfl
  | cons c m ih =>
    obtain ⟨k, w⟩ := c
    intro l a h ha
    simp only [Cells.rising, Cells.above, Bool.and_eq_true, decide_eq_true_eq] at h
    have hk : k ≠ a := by omega
    simp only [Cells.get?, if_neg hk]
    exact ih k a h.2 (by omega)

/-- Equal memories are equal data: two memories in canonical form that read the same at every address are one list. -/
theorem Cells.eq_of_get? {α : Type} : ∀ (m m' : List (Nat × α)), Cells.rising none m = true → Cells.rising none m' = true →
    (∀ a, Cells.get? m a = Cells.get? m' a) → m = m'
  | [], [], _, _, _ => rfl
  | [], (k, v) :: m', _, _, h => by simpa [Cells.get?] using h k
  | (k, v) :: m, [], _, _, h => by simpa [Cells.get?] using h k
  | (k, v) :: m, (k', v') :: m', hm, hm', h => by
    simp only [Cells.rising, Cells.above, Bool.true_and] at hm hm'
    have hkk : k = k' := by
      rcases Nat.lt_trichotomy k k' with hlt | heq | hgt
      · have h1 := h k
        have h2 : k' ≠ k := by omega
        simp [Cells.get?, h2, Cells.get?_of_rising m' k' k hm' (by omega)] at h1
      · exact heq
      · have h1 := h k'
        have h2 : k ≠ k' := by omega
        simp [Cells.get?, h2, Cells.get?_of_rising m k k' hm (by omega)] at h1
    subst hkk
    have hv : v = v' := by simpa [Cells.get?] using h k
    subst hv
    have htail : m = m' := by
      refine Cells.eq_of_get? m m' (Cells.rising_none hm) (Cells.rising_none hm') fun a => ?_
      by_cases ha : k = a
      · subst ha
        rw [Cells.get?_of_rising m k k hm (Nat.le_refl k), Cells.get?_of_rising m' k k hm' (Nat.le_refl k)]
      · simpa [Cells.get?, ha] using h a
    rw [htail]

theorem Memory.within_write {m : Memory} {size a : Nat} (h : m.within size) (ha : a < size) (b : Byte) :
    (m.write a b).within size := fun x hx => by
  rw [Memory.read?_write_other m b (by omega)]
  exact h x hx

theorem Memory.within_writeAll {m : Memory} {size a : Nat} (h : m.within size) (bs : List Byte)
    (ha : a + bs.length ≤ size) : (m.writeAll a bs).within size := fun x hx => by
  rw [Memory.read?_writeAll, if_neg (by omega)]
  exact h x hx

theorem Memory.heldBelow_write {m : Memory} {n : Nat} (h : m.heldBelow n) (b : Byte) : (m.write n b).heldBelow (n + 1) :=
  fun a ha => by
    rw [Memory.read?_write]
    split
    · rfl
    · exact h a (by omega)

theorem Memory.heldBelow_writeAll (m : Memory) (bs : List Byte) : (m.writeAll 0 bs).heldBelow bs.length := fun a ha => by
  rw [Memory.read?_writeAll, if_pos (by omega)]
  simp [ha]

@[simp] theorem Memory.heldBelow_zero (m : Memory) : m.heldBelow 0 := fun _ h => absurd h (Nat.not_lt_zero _)

@[simp] theorem Memory.within_nil (size : Nat) : Memory.within [] size := fun _ _ => rfl

end Sys2Proof.Machine
end

