-- ==== Sys2Proof/Laws/Operands.lean ====
section
/-! SUPPORT. What packing, unpacking, the write loop and the dispatcher's procedures give. -/

namespace Sys2Proof.Machine

/-! ### Lengths -/

@[simp] theorem packBytes_length : ∀ (n : Nat) (bits : List Bool), (packBytes n bits).length = n
  | 0, _ => rfl
  | n + 1, bits => by simp [packBytes, packBytes_length n]

@[simp] theorem packBits_length (bits : List Bool) : (packBits bits).length = ceil8 bits.length := packBytes_length _ _

@[simp] theorem packWords_length : ∀ ws : List Word, (packWords ws).length = 2 * ws.length
  | [] => rfl
  | _ :: ws => by simp only [packWords, List.length_cons, packWords_length ws]; omega

@[simp] theorem coilValues_length (data : List Byte) (n : Nat) : (coilValues data n).length = n := by simp [coilValues]

@[simp] theorem regValues_length (data : List Byte) (n : Nat) : (regValues data n).length = n := by simp [regValues]

@[simp] theorem echo_length (fc : Byte) (f1 f2 : Word) : (echo fc f1 f2).length = 5 := rfl

theorem countOk_iff (count : Word) (max : Nat) : countOk count max = true ↔ 1 ≤ count.toNat ∧ count.toNat ≤ max := by
  simp [countOk]

theorem rangeOk_iff (start count : Word) : rangeOk start count = true ↔ start.toNat + count.toNat ≤ 0x10000 := by
  simp [rangeOk]

/-! ### Packing -/

theorem packByte_getLsbD : ∀ (bits : List Bool) (i : Nat), i < 8 → (packByte bits).getLsbD i = bits.getD i false
  | [], i, _ => by simp [packByte]
  | b :: bs, 0, _ => by cases b <;> simp [packByte]
  | b :: bs, i + 1, hi => by
    have ih := packByte_getLsbD bs i (by omega)
    simp only [packByte, BitVec.getLsbD_or, BitVec.getLsbD_shiftLeft, List.getD_cons_succ, BitVec.getLsbD_setWidth,
      BitVec.getLsbD_ofBool]
    simp [hi, ih]

theorem packBytes_getLsbD : ∀ (n : Nat) (bits : List Bool) (i : Nat), i < 8 * n →
    ((packBytes n bits).getD (i / 8) 0#8).getLsbD (i % 8) = bits.getD i false
  | 0, _, i, h => by omega
  | n + 1, bits, i, h => by
    by_cases h8 : i < 8
    · have hd : i / 8 = 0 := by omega
      have hm : i % 8 = i := by omega
      rw [hd, hm]
      simp only [packBytes, List.getD_cons_zero]
      rw [packByte_getLsbD _ _ h8]
      simp [List.getD_eq_getElem?_getD, h8]
    · obtain ⟨k, rfl⟩ : ∃ k, i = k + 8 := ⟨i - 8, by omega⟩
      have hd : (k + 8) / 8 = k / 8 + 1 := by omega
      have hm : (k + 8) % 8 = k % 8 := by omega
      rw [hd, hm]
      simp only [packBytes, List.getD_cons_succ]
      rw [packBytes_getLsbD n (bits.drop 8) k (by omega)]
      simp [List.getD_eq_getElem?_getD, List.getElem?_drop, Nat.add_comm]

/-! ### The write loop -/

/-- The loop issues at most one request per value. -/
theorem writeLoop_requests_length {σ α : Type} (write : Word → α → σ → Status × σ) (request : Word → α → DMRequest)
    (start : Word) : ∀ (i : Nat) (vs : List α) (d : σ), (writeLoop write request start i vs d).2.1.length ≤ vs.length
  | _, [], _ => Nat.le_refl 0
  | i, v :: vs, d => by
    simp only [writeLoop]
    split
    · simpa using writeLoop_requests_length write request start (i + 1) vs _
    · simp

/-- A property of the data model's state that every write keeps holds after the loop. -/
theorem writeLoop_keeps {σ α : Type} {P : σ → Prop} (write : Word → α → σ → Status × σ) (request : Word → α → DMRequest)
    (start : Word) (hw : ∀ a v d, P d → P (write a v d).2) : ∀ (i : Nat) (vs : List α) (d : σ), P d →
    P (writeLoop write request start i vs d).2.2
  | _, [], _, h => h
  | i, v :: vs, d, h => by
    simp only [writeLoop]
    split
    · exact writeLoop_keeps write request start hw (i + 1) vs _ (hw _ v d h)
    · exact hw _ v d h

/-! ### The procedures -/

@[simp] theorem raised_dm {σ : Type} (c : Byte) (d : σ) : (raised c d).dm = d := rfl
@[simp] theorem raised_requests {σ : Type} (c : Byte) (d : σ) : (raised c d).requests = [] := rfl
@[simp] theorem raised_result {σ : Type} (c : Byte) (d : σ) : (raised c d).result = .exc c := rfl

@[simp] theorem checked_dm {σ : Type} (st : Status) (resp : List Byte) (rs : List DMRequest) (d : σ) :
    (checked st resp rs d).dm = d := by unfold checked; split <;> rfl

@[simp] theorem checked_requests {σ : Type} (st : Status) (resp : List Byte) (rs : List DMRequest) (d : σ) :
    (checked st resp rs d).requests = rs := by unfold checked; split <;> rfl

theorem checked_ok {σ : Type} (resp : List Byte) (rs : List DMRequest) (d : σ) :
    checked stOk resp rs d = ⟨.ok resp, rs, d⟩ := if_pos rfl

theorem checked_fail {σ : Type} {st : Status} (h : st ≠ stOk) (resp : List Byte) (rs : List DMRequest) (d : σ) :
    checked st resp rs d = ⟨.exc (st.setWidth 8), rs, d⟩ := if_neg h

/-- The success PDU of a dispatch, where it has one, is at most 252 bytes (R77). -/
def DispatchResult.short : DispatchResult → Prop
  | .ok resp => resp.length ≤ 252
  | .exc _ => True

theorem raised_short {σ : Type} (c : Byte) (d : σ) : (raised c d).result.short := trivial

theorem checked_short {σ : Type} (st : Status) {resp : List Byte} (rs : List DMRequest) (d : σ) (h : resp.length ≤ 252) :
    (checked st resp rs d).result.short := by
  unfold checked
  split
  · exact h
  · trivial

theorem readBitsProc_short {σ : Type} (dm : DataModel σ) (sp : BitSpace) (fc : Byte) (a : ReadArgs) (d : σ) :
    (readBitsProc dm sp fc a d).result.short := by
  unfold readBitsProc
  split
  · exact raised_short _ d
  · split
    · exact raised_short _ d
    · split
      · exact raised_short _ d
      · rename_i hc _
        refine checked_short _ _ _ ?_
        have hc' := (countOk_iff _ _).mp (Bool.not_eq_false _ ▸ hc)
        simp only [List.length_cons, packBits_length, ReadReply.count, ceil8]
        have := hc'.2
        simp only [maxReadBits] at this
        omega

theorem readRegsProc_short {σ : Type} (dm : DataModel σ) (sp : RegSpace) (fc : Byte) (a : ReadArgs) (d : σ) :
    (readRegsProc dm sp fc a d).result.short := by
  unfold readRegsProc
  split
  · exact raised_short _ d
  · split
    · exact raised_short _ d
    · split
      · exact raised_short _ d
      · rename_i hc _
        refine checked_short _ _ _ ?_
        have hc' := (countOk_iff _ _).mp (Bool.not_eq_false _ ▸ hc)
        simp only [List.length_cons, packWords_length, ReadReply.count]
        have := hc'.2
        simp only [maxReadRegs] at this
        omega

theorem writeCoilProc_short {σ : Type} (dm : DataModel σ) (fc : Byte) (a : WriteArgs) (d : σ) :
    (writeCoilProc dm fc a d).result.short := by
  unfold writeCoilProc
  split
  · exact raised_short _ d
  · split
    · exact raised_short _ d
    · exact checked_short _ _ _ (by simp)

theorem writeRegProc_short {σ : Type} (dm : DataModel σ) (fc : Byte) (a : WriteArgs) (d : σ) :
    (writeRegProc dm fc a d).result.short := by
  unfold writeRegProc
  split
  · exact raised_short _ d
  · exact checked_short _ _ _ (by simp)

theorem writeMultiProc_short {σ α : Type} (write : Word → α → σ → Status × σ) (request : Word → α → DMRequest)
    (maxCount : Nat) (byteCount : Nat → Nat) (values : List Byte → Nat → List α) (fc : Byte) (a : MultiArgs) (d : σ) :
    (writeMultiProc write request maxCount byteCount values fc a d).result.short := by
  unfold writeMultiProc
  split
  · exact raised_short _ d
  · split
    · exact raised_short _ d
    · split
      · exact raised_short _ d
      · split
        · exact raised_short _ d
        · split
          · exact raised_short _ d
          · exact checked_short _ _ _ (by simp)

theorem dispatchWith_short {σ : Type} (dm : DataModel σ) (i : Instr) (d : σ) : (dispatchWith dm i d).result.short := by
  cases i with
  | readCoils a => exact readBitsProc_short dm _ _ a d
  | readDiscreteInputs a => exact readBitsProc_short dm _ _ a d
  | readHoldingRegisters a => exact readRegsProc_short dm _ _ a d
  | readInputRegisters a => exact readRegsProc_short dm _ _ a d
  | writeSingleCoil a => exact writeCoilProc_short dm _ a d
  | writeSingleRegister a => exact writeRegProc_short dm _ a d
  | writeMultipleCoils a => exact writeMultiProc_short _ _ _ _ _ _ a d
  | writeMultipleRegisters a => exact writeMultiProc_short _ _ _ _ _ _ a d
  | illegalFunction fc payload => exact raised_short _ d

theorem responsePdu_length_le {σ : Type} (fc : Byte) {r : Dispatched σ} (h : r.result.short) :
    (responsePdu fc r).length ≤ 252 := by
  unfold responsePdu
  unfold DispatchResult.short at h
  split <;> simp_all

end Sys2Proof.Machine
end

