-- ==== Sys2Proof/Laws/DataModel.lean ====
section
/-! SUPPORT. The stored data model: what a read gives after a write, and the canonical form kept by every request. -/

namespace Sys2Proof.Machine

theorem Cells.all_put {α : Type} {p : Nat × α → Bool} (m : List (Nat × α)) (a : Nat) (v : α) (h : m.all p = true)
    (hv : p (a, v) = true) : (Cells.put m a v).all p = true := by
  induction m with
  | nil => simp [Cells.put, hv]
  | cons c m ih =>
    obtain ⟨k, w⟩ := c
    simp only [List.all_cons, Bool.and_eq_true] at h
    by_cases hlt : a < k
    · simp [Cells.put, hlt, hv, h.1, h.2]
    · by_cases heq : a = k
      · simp [Cells.put, heq ▸ hv, heq, h.2]
      · simp [Cells.put, hlt, heq, h.1, ih h.2]

theorem Cells.all_erase {α : Type} {p : Nat × α → Bool} (m : List (Nat × α)) (a : Nat) (h : m.all p = true) :
    (Cells.erase m a).all p = true := by
  induction m with
  | nil => rfl
  | cons c m ih =>
    obtain ⟨k, w⟩ := c
    simp only [List.all_cons, Bool.and_eq_true] at h
    by_cases heq : k = a
    · simp [Cells.erase, heq, h.2]
    · simp [Cells.erase, heq, h.1, ih h.2]

/-- In a rising list an erased address is not listed, and every other one is as before. -/
theorem Cells.get?_erase {α : Type} (m : List (Nat × α)) (a b : Nat) (h : Cells.rising none m = true) :
    Cells.get? (Cells.erase m a) b = if a = b then none else Cells.get? m b := by
  induction m with
  | nil => simp [Cells.erase, Cells.get?]
  | cons c m ih =>
    obtain ⟨k, w⟩ := c
    have hm : Cells.rising (some k) m = true := by
      simp only [Cells.rising, Bool.and_eq_true] at h
      exact h.2
    by_cases hka : k = a
    · subst hka
      by_cases hb : k = b
      · subst hb
        simp [Cells.erase, Cells.get?_of_rising m k k hm (Nat.le_refl k)]
      · simp [Cells.erase, Cells.get?, hb]
    · by_cases hkb : k = b
      · subst hkb
        have : ¬a = k := fun h => hka h.symm
        simp [Cells.erase, Cells.get?, hka, this]
      · simp [Cells.erase, Cells.get?, hka, hkb, ih (Cells.rising_none hm)]

theorem DMSpace.wf_store {α : Type} [DecidableEq α] {d : α} {sp : DMSpace α} (h : sp.wf d = true) (a : Nat) (v : α) :
    (sp.store d a v).wf d = true := by
  simp only [DMSpace.wf, Bool.and_eq_true] at h ⊢
  unfold DMSpace.store
  by_cases hv : v = d
  · simp only [if_pos hv]
    exact ⟨Cells.rising_erase _ _ _ h.1, Cells.all_erase _ _ h.2⟩
  · simp only [if_neg hv]
    exact ⟨Cells.rising_put _ _ _ _ h.1 rfl, Cells.all_put _ _ _ h.2 (by simpa using hv)⟩

theorem DMSpace.wf_write {α : Type} [DecidableEq α] {d : α} {sp : DMSpace α} (h : sp.wf d = true) (num : α → Nat)
    (a : Word) (v : α) : (sp.write d num a v).2.wf d = true := by
  simp only [DMSpace.write]
  split
  · exact DMSpace.wf_store h _ _
  · exact h

/-- The value of a point: what a read of it gives. -/
def DMSpace.value {α : Type} (d : α) (sp : DMSpace α) (a : Nat) : α := (Cells.get? sp.cells a).getD d

/-- A read of a point after a store of `v` gives `v` there, and every other point is as before. -/
theorem DMSpace.value_store {α : Type} [DecidableEq α] {d : α} {sp : DMSpace α} (h : sp.wf d = true) (a b : Nat) (v : α) :
    (sp.store d a v).value d b = if a = b then v else sp.value d b := by
  simp only [DMSpace.wf, Bool.and_eq_true] at h
  unfold DMSpace.store DMSpace.value
  by_cases hv : v = d
  · simp only [if_pos hv, Cells.get?_erase _ _ _ h.1]
    by_cases hab : a = b <;> simp [hab, hv]
  · simp only [if_neg hv, Cells.get?_put]
    by_cases hab : a = b <;> simp [hab]

theorem DMSpace.values_eq {α : Type} (d : α) (sp : DMSpace α) : ∀ (n a : Nat),
    sp.values d a n = (List.range n).map fun i => sp.value d (a + i)
  | 0, _ => rfl
  | n + 1, a => by
    rw [DMSpace.values, DMSpace.values_eq d sp n (a + 1), List.range_succ_eq_map, List.map_cons, List.map_map]
    refine congrArg (_ :: ·) (List.map_congr_left fun i _ => ?_)
    simp only [Function.comp_apply, Nat.succ_eq_add_one]
    rw [Nat.add_assoc, Nat.add_comm 1 i]

theorem DMState.wf_readBits {d : DMState} (h : d.wf = true) (sp : BitSpace) (a : Word) (n : Nat) :
    (d.readBits sp a n).2.wf = true := by
  unfold DMState.readBits
  split <;> exact h

theorem DMState.wf_readRegs {d : DMState} (h : d.wf = true) (sp : RegSpace) (a : Word) (n : Nat) :
    (d.readRegs sp a n).2.wf = true := by
  unfold DMState.readRegs
  split <;> exact h

theorem DMState.wf_writeCoil {d : DMState} (h : d.wf = true) (a : Word) (v : Bool) :
    (DMState.writeCoil a v d).2.wf = true := by
  unfold DMState.writeCoil
  split
  · exact h
  · simp only [DMState.wf, Bool.and_eq_true] at h ⊢
    exact ⟨⟨⟨DMSpace.wf_write h.1.1.1 _ _ _, h.1.1.2⟩, h.1.2⟩, h.2⟩

theorem DMState.wf_writeReg {d : DMState} (h : d.wf = true) (a : Word) (v : Word) :
    (DMState.writeReg a v d).2.wf = true := by
  unfold DMState.writeReg
  split
  · exact h
  · simp only [DMState.wf, Bool.and_eq_true] at h ⊢
    exact ⟨⟨h.1.1, DMSpace.wf_write h.1.2 _ _ _⟩, h.2⟩

/-- A property of the data model's state that each of the four requests keeps holds after a dispatch. -/
theorem dispatchWith_keeps {σ : Type} {P : σ → Prop} (dm : DataModel σ)
    (hb : ∀ sp a n d, P d → P (dm.readBits sp a n d).2) (hr : ∀ sp a n d, P d → P (dm.readRegs sp a n d).2)
    (hc : ∀ a v d, P d → P (dm.writeCoil a v d).2) (hw : ∀ a v d, P d → P (dm.writeReg a v d).2)
    (i : Instr) {d : σ} (h : P d) : P (dispatchWith dm i d).dm := by
  have readBits : ∀ sp fc a, P (readBitsProc dm sp fc a d).dm := fun sp fc a => by
    unfold readBitsProc
    split
    · exact h
    · split
      · exact h
      · split
        · exact h
        · simpa using hb _ _ _ d h
  have readRegs : ∀ sp fc a, P (readRegsProc dm sp fc a d).dm := fun sp fc a => by
    unfold readRegsProc
    split
    · exact h
    · split
      · exact h
      · split
        · exact h
        · simpa using hr _ _ _ d h
  cases i with
  | readCoils a => exact readBits _ _ a
  | readDiscreteInputs a => exact readBits _ _ a
  | readHoldingRegisters a => exact readRegs _ _ a
  | readInputRegisters a => exact readRegs _ _ a
  | writeSingleCoil a =>
    simp only [dispatchWith, dispatchWriteSingleCoil, writeCoilProc]
    split
    · exact h
    · split
      · exact h
      · simpa using hc _ _ d h
  | writeSingleRegister a =>
    simp only [dispatchWith, dispatchWriteSingleRegister, writeRegProc]
    split
    · exact h
    · simpa using hw _ _ d h
  | writeMultipleCoils a =>
    simp only [dispatchWith, dispatchWriteMultipleCoils, writeMultiProc]
    split
    · exact h
    · split
      · exact h
      · split
        · exact h
        · split
          · exact h
          · split
            · exact h
            · simpa using writeLoop_keeps _ _ _ hc 0 _ d h
  | writeMultipleRegisters a =>
    simp only [dispatchWith, dispatchWriteMultipleRegisters, writeMultiProc]
    split
    · exact h
    · split
      · exact h
      · split
        · exact h
        · split
          · exact h
          · split
            · exact h
            · simpa using writeLoop_keeps _ _ _ hw 0 _ d h
  | illegalFunction fc payload => exact h

end Sys2Proof.Machine
end

