-- ==== Sys2Proof/Laws/State.lean ====
section
/-! SUPPORT. One lemma for each field of State and each named update of it, true by rfl: no later proof unfolds a record
update. -/

namespace Sys2Proof.Machine

variable (s : State)

/-! ### emit -/

@[simp] theorem emit_mode (o : Output) : (emit o s).mode = s.mode := rfl
@[simp] theorem emit_rxBuf (o : Output) : (emit o s).rxBuf = s.rxBuf := rfl
@[simp] theorem emit_rxLen (o : Output) : (emit o s).rxLen = s.rxLen := rfl
@[simp] theorem emit_lastRxTime (o : Output) : (emit o s).lastRxTime = s.lastRxTime := rfl
@[simp] theorem emit_lastTxTime (o : Output) : (emit o s).lastTxTime = s.lastTxTime := rfl
@[simp] theorem emit_de (o : Output) : (emit o s).de = s.de := rfl
@[simp] theorem emit_txBuf (o : Output) : (emit o s).txBuf = s.txBuf := rfl
@[simp] theorem emit_txLen (o : Output) : (emit o s).txLen = s.txLen := rfl
@[simp] theorem emit_crcReg (o : Output) : (emit o s).crcReg = s.crcReg := rfl
@[simp] theorem emit_crcErrCnt (o : Output) : (emit o s).crcErrCnt = s.crcErrCnt := rfl
@[simp] theorem emit_ovfCnt (o : Output) : (emit o s).ovfCnt = s.ovfCnt := rfl
@[simp] theorem emit_cfgSlaveAddr (o : Output) : (emit o s).cfgSlaveAddr = s.cfgSlaveAddr := rfl
@[simp] theorem emit_cfgTSilence (o : Output) : (emit o s).cfgTSilence = s.cfgTSilence := rfl
@[simp] theorem emit_cfgFuncEn (o : Output) : (emit o s).cfgFuncEn = s.cfgFuncEn := rfl
@[simp] theorem emit_params (o : Output) : (emit o s).params = s.params := rfl
@[simp] theorem emit_dm (o : Output) : (emit o s).dm = s.dm := rfl
@[simp] theorem emit_txInFlight (o : Output) : (emit o s).txInFlight = s.txInFlight := rfl
@[simp] theorem emit_inputs (o : Output) : (emit o s).inputs = s.inputs := rfl
@[simp] theorem emit_out (o : Output) : (emit o s).out = s.out ++ [o] := rfl
@[simp] theorem emit_trace (o : Output) : (emit o s).trace = s.trace := rfl

/-! ### issued -/

@[simp] theorem issued_mode (rs : List DMRequest) (d : DMState) : (issued rs d s).mode = s.mode := rfl
@[simp] theorem issued_rxBuf (rs : List DMRequest) (d : DMState) : (issued rs d s).rxBuf = s.rxBuf := rfl
@[simp] theorem issued_rxLen (rs : List DMRequest) (d : DMState) : (issued rs d s).rxLen = s.rxLen := rfl
@[simp] theorem issued_lastRxTime (rs : List DMRequest) (d : DMState) : (issued rs d s).lastRxTime = s.lastRxTime := rfl
@[simp] theorem issued_lastTxTime (rs : List DMRequest) (d : DMState) : (issued rs d s).lastTxTime = s.lastTxTime := rfl
@[simp] theorem issued_de (rs : List DMRequest) (d : DMState) : (issued rs d s).de = s.de := rfl
@[simp] theorem issued_txBuf (rs : List DMRequest) (d : DMState) : (issued rs d s).txBuf = s.txBuf := rfl
@[simp] theorem issued_txLen (rs : List DMRequest) (d : DMState) : (issued rs d s).txLen = s.txLen := rfl
@[simp] theorem issued_crcReg (rs : List DMRequest) (d : DMState) : (issued rs d s).crcReg = s.crcReg := rfl
@[simp] theorem issued_crcErrCnt (rs : List DMRequest) (d : DMState) : (issued rs d s).crcErrCnt = s.crcErrCnt := rfl
@[simp] theorem issued_ovfCnt (rs : List DMRequest) (d : DMState) : (issued rs d s).ovfCnt = s.ovfCnt := rfl
@[simp] theorem issued_cfgSlaveAddr (rs : List DMRequest) (d : DMState) : (issued rs d s).cfgSlaveAddr = s.cfgSlaveAddr := rfl
@[simp] theorem issued_cfgTSilence (rs : List DMRequest) (d : DMState) : (issued rs d s).cfgTSilence = s.cfgTSilence := rfl
@[simp] theorem issued_cfgFuncEn (rs : List DMRequest) (d : DMState) : (issued rs d s).cfgFuncEn = s.cfgFuncEn := rfl
@[simp] theorem issued_params (rs : List DMRequest) (d : DMState) : (issued rs d s).params = s.params := rfl
@[simp] theorem issued_dm (rs : List DMRequest) (d : DMState) : (issued rs d s).dm = d := rfl
@[simp] theorem issued_txInFlight (rs : List DMRequest) (d : DMState) : (issued rs d s).txInFlight = s.txInFlight := rfl
@[simp] theorem issued_inputs (rs : List DMRequest) (d : DMState) : (issued rs d s).inputs = s.inputs := rfl
@[simp] theorem issued_out (rs : List DMRequest) (d : DMState) : (issued rs d s).out = s.out ++ rs.map .dmRequest := rfl
@[simp] theorem issued_trace (rs : List DMRequest) (d : DMState) : (issued rs d s).trace = s.trace := rfl

/-! ### endTx -/

@[simp] theorem endTx_mode (now : Time) : (endTx now s).mode = .receiving := rfl
@[simp] theorem endTx_rxBuf (now : Time) : (endTx now s).rxBuf = s.rxBuf := rfl
@[simp] theorem endTx_rxLen (now : Time) : (endTx now s).rxLen = 0 := rfl
@[simp] theorem endTx_lastRxTime (now : Time) : (endTx now s).lastRxTime = s.lastRxTime := rfl
@[simp] theorem endTx_lastTxTime (now : Time) : (endTx now s).lastTxTime = now := rfl
@[simp] theorem endTx_de (now : Time) : (endTx now s).de = false := rfl
@[simp] theorem endTx_txBuf (now : Time) : (endTx now s).txBuf = s.txBuf := rfl
@[simp] theorem endTx_txLen (now : Time) : (endTx now s).txLen = s.txLen := rfl
@[simp] theorem endTx_crcReg (now : Time) : (endTx now s).crcReg = s.crcReg := rfl
@[simp] theorem endTx_crcErrCnt (now : Time) : (endTx now s).crcErrCnt = s.crcErrCnt := rfl
@[simp] theorem endTx_ovfCnt (now : Time) : (endTx now s).ovfCnt = s.ovfCnt := rfl
@[simp] theorem endTx_cfgSlaveAddr (now : Time) : (endTx now s).cfgSlaveAddr = s.cfgSlaveAddr := rfl
@[simp] theorem endTx_cfgTSilence (now : Time) : (endTx now s).cfgTSilence = s.cfgTSilence := rfl
@[simp] theorem endTx_cfgFuncEn (now : Time) : (endTx now s).cfgFuncEn = s.cfgFuncEn := rfl
@[simp] theorem endTx_params (now : Time) : (endTx now s).params = s.params := rfl
@[simp] theorem endTx_dm (now : Time) : (endTx now s).dm = s.dm := rfl
@[simp] theorem endTx_txInFlight (now : Time) : (endTx now s).txInFlight = s.txInFlight := rfl
@[simp] theorem endTx_inputs (now : Time) : (endTx now s).inputs = s.inputs := rfl
@[simp] theorem endTx_out (now : Time) : (endTx now s).out = s.out := rfl
@[simp] theorem endTx_trace (now : Time) : (endTx now s).trace = s.trace := rfl

/-! ### dropFrame -/

@[simp] theorem dropFrame_mode : (dropFrame s).mode = s.mode := rfl
@[simp] theorem dropFrame_rxBuf : (dropFrame s).rxBuf = s.rxBuf := rfl
@[simp] theorem dropFrame_rxLen : (dropFrame s).rxLen = 0 := rfl
@[simp] theorem dropFrame_lastRxTime : (dropFrame s).lastRxTime = s.lastRxTime := rfl
@[simp] theorem dropFrame_lastTxTime : (dropFrame s).lastTxTime = s.lastTxTime := rfl
@[simp] theorem dropFrame_de : (dropFrame s).de = s.de := rfl
@[simp] theorem dropFrame_txBuf : (dropFrame s).txBuf = s.txBuf := rfl
@[simp] theorem dropFrame_txLen : (dropFrame s).txLen = s.txLen := rfl
@[simp] theorem dropFrame_crcReg : (dropFrame s).crcReg = s.crcReg := rfl
@[simp] theorem dropFrame_crcErrCnt : (dropFrame s).crcErrCnt = s.crcErrCnt := rfl
@[simp] theorem dropFrame_ovfCnt : (dropFrame s).ovfCnt = s.ovfCnt := rfl
@[simp] theorem dropFrame_cfgSlaveAddr : (dropFrame s).cfgSlaveAddr = s.cfgSlaveAddr := rfl
@[simp] theorem dropFrame_cfgTSilence : (dropFrame s).cfgTSilence = s.cfgTSilence := rfl
@[simp] theorem dropFrame_cfgFuncEn : (dropFrame s).cfgFuncEn = s.cfgFuncEn := rfl
@[simp] theorem dropFrame_params : (dropFrame s).params = s.params := rfl
@[simp] theorem dropFrame_dm : (dropFrame s).dm = s.dm := rfl
@[simp] theorem dropFrame_txInFlight : (dropFrame s).txInFlight = s.txInFlight := rfl
@[simp] theorem dropFrame_inputs : (dropFrame s).inputs = s.inputs := rfl
@[simp] theorem dropFrame_out : (dropFrame s).out = s.out := rfl
@[simp] theorem dropFrame_trace : (dropFrame s).trace = s.trace := rfl

/-! ### wrapRx -/

@[simp] theorem wrapRx_mode : (wrapRx s).mode = s.mode := rfl
@[simp] theorem wrapRx_rxBuf : (wrapRx s).rxBuf = s.rxBuf := rfl
@[simp] theorem wrapRx_rxLen : (wrapRx s).rxLen = 0 := rfl
@[simp] theorem wrapRx_lastRxTime : (wrapRx s).lastRxTime = s.lastRxTime := rfl
@[simp] theorem wrapRx_lastTxTime : (wrapRx s).lastTxTime = s.lastTxTime := rfl
@[simp] theorem wrapRx_de : (wrapRx s).de = s.de := rfl
@[simp] theorem wrapRx_txBuf : (wrapRx s).txBuf = s.txBuf := rfl
@[simp] theorem wrapRx_txLen : (wrapRx s).txLen = s.txLen := rfl
@[simp] theorem wrapRx_crcReg : (wrapRx s).crcReg = s.crcReg := rfl
@[simp] theorem wrapRx_crcErrCnt : (wrapRx s).crcErrCnt = s.crcErrCnt := rfl
@[simp] theorem wrapRx_ovfCnt : (wrapRx s).ovfCnt = s.ovfCnt + 1#16 := rfl
@[simp] theorem wrapRx_cfgSlaveAddr : (wrapRx s).cfgSlaveAddr = s.cfgSlaveAddr := rfl
@[simp] theorem wrapRx_cfgTSilence : (wrapRx s).cfgTSilence = s.cfgTSilence := rfl
@[simp] theorem wrapRx_cfgFuncEn : (wrapRx s).cfgFuncEn = s.cfgFuncEn := rfl
@[simp] theorem wrapRx_params : (wrapRx s).params = s.params := rfl
@[simp] theorem wrapRx_dm : (wrapRx s).dm = s.dm := rfl
@[simp] theorem wrapRx_txInFlight : (wrapRx s).txInFlight = s.txInFlight := rfl
@[simp] theorem wrapRx_inputs : (wrapRx s).inputs = s.inputs := rfl
@[simp] theorem wrapRx_out : (wrapRx s).out = s.out := rfl
@[simp] theorem wrapRx_trace : (wrapRx s).trace = s.trace := rfl

/-! ### countCrcErr -/

@[simp] theorem countCrcErr_mode : (countCrcErr s).mode = s.mode := rfl
@[simp] theorem countCrcErr_rxBuf : (countCrcErr s).rxBuf = s.rxBuf := rfl
@[simp] theorem countCrcErr_rxLen : (countCrcErr s).rxLen = s.rxLen := rfl
@[simp] theorem countCrcErr_lastRxTime : (countCrcErr s).lastRxTime = s.lastRxTime := rfl
@[simp] theorem countCrcErr_lastTxTime : (countCrcErr s).lastTxTime = s.lastTxTime := rfl
@[simp] theorem countCrcErr_de : (countCrcErr s).de = s.de := rfl
@[simp] theorem countCrcErr_txBuf : (countCrcErr s).txBuf = s.txBuf := rfl
@[simp] theorem countCrcErr_txLen : (countCrcErr s).txLen = s.txLen := rfl
@[simp] theorem countCrcErr_crcReg : (countCrcErr s).crcReg = s.crcReg := rfl
@[simp] theorem countCrcErr_crcErrCnt : (countCrcErr s).crcErrCnt = s.crcErrCnt + 1#16 := rfl
@[simp] theorem countCrcErr_ovfCnt : (countCrcErr s).ovfCnt = s.ovfCnt := rfl
@[simp] theorem countCrcErr_cfgSlaveAddr : (countCrcErr s).cfgSlaveAddr = s.cfgSlaveAddr := rfl
@[simp] theorem countCrcErr_cfgTSilence : (countCrcErr s).cfgTSilence = s.cfgTSilence := rfl
@[simp] theorem countCrcErr_cfgFuncEn : (countCrcErr s).cfgFuncEn = s.cfgFuncEn := rfl
@[simp] theorem countCrcErr_params : (countCrcErr s).params = s.params := rfl
@[simp] theorem countCrcErr_dm : (countCrcErr s).dm = s.dm := rfl
@[simp] theorem countCrcErr_txInFlight : (countCrcErr s).txInFlight = s.txInFlight := rfl
@[simp] theorem countCrcErr_inputs : (countCrcErr s).inputs = s.inputs := rfl
@[simp] theorem countCrcErr_out : (countCrcErr s).out = s.out := rfl
@[simp] theorem countCrcErr_trace : (countCrcErr s).trace = s.trace := rfl

/-! ### completeTx -/

@[simp] theorem completeTx_mode : (completeTx s).mode = s.mode := rfl
@[simp] theorem completeTx_rxBuf : (completeTx s).rxBuf = s.rxBuf := rfl
@[simp] theorem completeTx_rxLen : (completeTx s).rxLen = s.rxLen := rfl
@[simp] theorem completeTx_lastRxTime : (completeTx s).lastRxTime = s.lastRxTime := rfl
@[simp] theorem completeTx_lastTxTime : (completeTx s).lastTxTime = s.lastTxTime := rfl
@[simp] theorem completeTx_de : (completeTx s).de = s.de := rfl
@[simp] theorem completeTx_txBuf : (completeTx s).txBuf = s.txBuf := rfl
@[simp] theorem completeTx_txLen : (completeTx s).txLen = s.txLen := rfl
@[simp] theorem completeTx_crcReg : (completeTx s).crcReg = s.crcReg := rfl
@[simp] theorem completeTx_crcErrCnt : (completeTx s).crcErrCnt = s.crcErrCnt := rfl
@[simp] theorem completeTx_ovfCnt : (completeTx s).ovfCnt = s.ovfCnt := rfl
@[simp] theorem completeTx_cfgSlaveAddr : (completeTx s).cfgSlaveAddr = s.cfgSlaveAddr := rfl
@[simp] theorem completeTx_cfgTSilence : (completeTx s).cfgTSilence = s.cfgTSilence := rfl
@[simp] theorem completeTx_cfgFuncEn : (completeTx s).cfgFuncEn = s.cfgFuncEn := rfl
@[simp] theorem completeTx_params : (completeTx s).params = s.params := rfl
@[simp] theorem completeTx_dm : (completeTx s).dm = s.dm := rfl
@[simp] theorem completeTx_txInFlight : (completeTx s).txInFlight = s.txInFlight.drop 1 := rfl
@[simp] theorem completeTx_inputs : (completeTx s).inputs = s.inputs := rfl
@[simp] theorem completeTx_out : (completeTx s).out = s.out := rfl
@[simp] theorem completeTx_trace : (completeTx s).trace = s.trace := rfl

/-! ### deliver -/

@[simp] theorem deliver_mode (rest : List Event) : (deliver rest s).mode = s.mode := rfl
@[simp] theorem deliver_rxBuf (rest : List Event) : (deliver rest s).rxBuf = s.rxBuf := rfl
@[simp] theorem deliver_rxLen (rest : List Event) : (deliver rest s).rxLen = s.rxLen := rfl
@[simp] theorem deliver_lastRxTime (rest : List Event) : (deliver rest s).lastRxTime = s.lastRxTime := rfl
@[simp] theorem deliver_lastTxTime (rest : List Event) : (deliver rest s).lastTxTime = s.lastTxTime := rfl
@[simp] theorem deliver_de (rest : List Event) : (deliver rest s).de = s.de := rfl
@[simp] theorem deliver_txBuf (rest : List Event) : (deliver rest s).txBuf = s.txBuf := rfl
@[simp] theorem deliver_txLen (rest : List Event) : (deliver rest s).txLen = s.txLen := rfl
@[simp] theorem deliver_crcReg (rest : List Event) : (deliver rest s).crcReg = s.crcReg := rfl
@[simp] theorem deliver_crcErrCnt (rest : List Event) : (deliver rest s).crcErrCnt = s.crcErrCnt := rfl
@[simp] theorem deliver_ovfCnt (rest : List Event) : (deliver rest s).ovfCnt = s.ovfCnt := rfl
@[simp] theorem deliver_cfgSlaveAddr (rest : List Event) : (deliver rest s).cfgSlaveAddr = s.cfgSlaveAddr := rfl
@[simp] theorem deliver_cfgTSilence (rest : List Event) : (deliver rest s).cfgTSilence = s.cfgTSilence := rfl
@[simp] theorem deliver_cfgFuncEn (rest : List Event) : (deliver rest s).cfgFuncEn = s.cfgFuncEn := rfl
@[simp] theorem deliver_params (rest : List Event) : (deliver rest s).params = s.params := rfl
@[simp] theorem deliver_dm (rest : List Event) : (deliver rest s).dm = s.dm := rfl
@[simp] theorem deliver_txInFlight (rest : List Event) : (deliver rest s).txInFlight = s.txInFlight := rfl
@[simp] theorem deliver_inputs (rest : List Event) : (deliver rest s).inputs = rest := rfl
@[simp] theorem deliver_out (rest : List Event) : (deliver rest s).out = [] := rfl
@[simp] theorem deliver_trace (rest : List Event) : (deliver rest s).trace = s.trace := rfl

/-! ### closeEvent -/

@[simp] theorem closeEvent_mode (e : Event) : (closeEvent e s).mode = s.mode := rfl
@[simp] theorem closeEvent_rxBuf (e : Event) : (closeEvent e s).rxBuf = s.rxBuf := rfl
@[simp] theorem closeEvent_rxLen (e : Event) : (closeEvent e s).rxLen = s.rxLen := rfl
@[simp] theorem closeEvent_lastRxTime (e : Event) : (closeEvent e s).lastRxTime = s.lastRxTime := rfl
@[simp] theorem closeEvent_lastTxTime (e : Event) : (closeEvent e s).lastTxTime = s.lastTxTime := rfl
@[simp] theorem closeEvent_de (e : Event) : (closeEvent e s).de = s.de := rfl
@[simp] theorem closeEvent_txBuf (e : Event) : (closeEvent e s).txBuf = s.txBuf := rfl
@[simp] theorem closeEvent_txLen (e : Event) : (closeEvent e s).txLen = s.txLen := rfl
@[simp] theorem closeEvent_crcReg (e : Event) : (closeEvent e s).crcReg = s.crcReg := rfl
@[simp] theorem closeEvent_crcErrCnt (e : Event) : (closeEvent e s).crcErrCnt = s.crcErrCnt := rfl
@[simp] theorem closeEvent_ovfCnt (e : Event) : (closeEvent e s).ovfCnt = s.ovfCnt := rfl
@[simp] theorem closeEvent_cfgSlaveAddr (e : Event) : (closeEvent e s).cfgSlaveAddr = s.cfgSlaveAddr := rfl
@[simp] theorem closeEvent_cfgTSilence (e : Event) : (closeEvent e s).cfgTSilence = s.cfgTSilence := rfl
@[simp] theorem closeEvent_cfgFuncEn (e : Event) : (closeEvent e s).cfgFuncEn = s.cfgFuncEn := rfl
@[simp] theorem closeEvent_params (e : Event) : (closeEvent e s).params = s.params := rfl
@[simp] theorem closeEvent_dm (e : Event) : (closeEvent e s).dm = s.dm := rfl
@[simp] theorem closeEvent_txInFlight (e : Event) : (closeEvent e s).txInFlight = s.txInFlight := rfl
@[simp] theorem closeEvent_inputs (e : Event) : (closeEvent e s).inputs = s.inputs := rfl
@[simp] theorem closeEvent_out (e : Event) : (closeEvent e s).out = [] := rfl
@[simp] theorem closeEvent_trace (e : Event) : (closeEvent e s).trace = s.trace ++ [⟨e, s.out, observe s⟩] := rfl

/-! ### eventCrcInit -/

@[simp] theorem eventCrcInit_mode : (eventCrcInit s).mode = s.mode := rfl
@[simp] theorem eventCrcInit_rxBuf : (eventCrcInit s).rxBuf = s.rxBuf := rfl
@[simp] theorem eventCrcInit_rxLen : (eventCrcInit s).rxLen = s.rxLen := rfl
@[simp] theorem eventCrcInit_lastRxTime : (eventCrcInit s).lastRxTime = s.lastRxTime := rfl
@[simp] theorem eventCrcInit_lastTxTime : (eventCrcInit s).lastTxTime = s.lastTxTime := rfl
@[simp] theorem eventCrcInit_de : (eventCrcInit s).de = s.de := rfl
@[simp] theorem eventCrcInit_txBuf : (eventCrcInit s).txBuf = s.txBuf := rfl
@[simp] theorem eventCrcInit_txLen : (eventCrcInit s).txLen = s.txLen := rfl
@[simp] theorem eventCrcInit_crcReg : (eventCrcInit s).crcReg = crcInitValue := rfl
@[simp] theorem eventCrcInit_crcErrCnt : (eventCrcInit s).crcErrCnt = s.crcErrCnt := rfl
@[simp] theorem eventCrcInit_ovfCnt : (eventCrcInit s).ovfCnt = s.ovfCnt := rfl
@[simp] theorem eventCrcInit_cfgSlaveAddr : (eventCrcInit s).cfgSlaveAddr = s.cfgSlaveAddr := rfl
@[simp] theorem eventCrcInit_cfgTSilence : (eventCrcInit s).cfgTSilence = s.cfgTSilence := rfl
@[simp] theorem eventCrcInit_cfgFuncEn : (eventCrcInit s).cfgFuncEn = s.cfgFuncEn := rfl
@[simp] theorem eventCrcInit_params : (eventCrcInit s).params = s.params := rfl
@[simp] theorem eventCrcInit_dm : (eventCrcInit s).dm = s.dm := rfl
@[simp] theorem eventCrcInit_txInFlight : (eventCrcInit s).txInFlight = s.txInFlight := rfl
@[simp] theorem eventCrcInit_inputs : (eventCrcInit s).inputs = s.inputs := rfl
@[simp] theorem eventCrcInit_out : (eventCrcInit s).out = s.out := rfl
@[simp] theorem eventCrcInit_trace : (eventCrcInit s).trace = s.trace := rfl

/-! ### eventCrcByte -/

@[simp] theorem eventCrcByte_mode (b : Byte) : (eventCrcByte b s).mode = s.mode := rfl
@[simp] theorem eventCrcByte_rxBuf (b : Byte) : (eventCrcByte b s).rxBuf = s.rxBuf := rfl
@[simp] theorem eventCrcByte_rxLen (b : Byte) : (eventCrcByte b s).rxLen = s.rxLen := rfl
@[simp] theorem eventCrcByte_lastRxTime (b : Byte) : (eventCrcByte b s).lastRxTime = s.lastRxTime := rfl
@[simp] theorem eventCrcByte_lastTxTime (b : Byte) : (eventCrcByte b s).lastTxTime = s.lastTxTime := rfl
@[simp] theorem eventCrcByte_de (b : Byte) : (eventCrcByte b s).de = s.de := rfl
@[simp] theorem eventCrcByte_txBuf (b : Byte) : (eventCrcByte b s).txBuf = s.txBuf := rfl
@[simp] theorem eventCrcByte_txLen (b : Byte) : (eventCrcByte b s).txLen = s.txLen := rfl
@[simp] theorem eventCrcByte_crcReg (b : Byte) : (eventCrcByte b s).crcReg = crcStep s.crcReg b := rfl
@[simp] theorem eventCrcByte_crcErrCnt (b : Byte) : (eventCrcByte b s).crcErrCnt = s.crcErrCnt := rfl
@[simp] theorem eventCrcByte_ovfCnt (b : Byte) : (eventCrcByte b s).ovfCnt = s.ovfCnt := rfl
@[simp] theorem eventCrcByte_cfgSlaveAddr (b : Byte) : (eventCrcByte b s).cfgSlaveAddr = s.cfgSlaveAddr := rfl
@[simp] theorem eventCrcByte_cfgTSilence (b : Byte) : (eventCrcByte b s).cfgTSilence = s.cfgTSilence := rfl
@[simp] theorem eventCrcByte_cfgFuncEn (b : Byte) : (eventCrcByte b s).cfgFuncEn = s.cfgFuncEn := rfl
@[simp] theorem eventCrcByte_params (b : Byte) : (eventCrcByte b s).params = s.params := rfl
@[simp] theorem eventCrcByte_dm (b : Byte) : (eventCrcByte b s).dm = s.dm := rfl
@[simp] theorem eventCrcByte_txInFlight (b : Byte) : (eventCrcByte b s).txInFlight = s.txInFlight := rfl
@[simp] theorem eventCrcByte_inputs (b : Byte) : (eventCrcByte b s).inputs = s.inputs := rfl
@[simp] theorem eventCrcByte_out (b : Byte) : (eventCrcByte b s).out = s.out := rfl
@[simp] theorem eventCrcByte_trace (b : Byte) : (eventCrcByte b s).trace = s.trace := rfl

/-! ### eventReset -/

@[simp] theorem eventReset_mode : (eventReset s).mode = .receiving := rfl
@[simp] theorem eventReset_rxBuf : (eventReset s).rxBuf = [] := rfl
@[simp] theorem eventReset_rxLen : (eventReset s).rxLen = 0 := rfl
@[simp] theorem eventReset_lastRxTime : (eventReset s).lastRxTime = 0#32 := rfl
@[simp] theorem eventReset_lastTxTime : (eventReset s).lastTxTime = 0#32 := rfl
@[simp] theorem eventReset_de : (eventReset s).de = false := rfl
@[simp] theorem eventReset_txBuf : (eventReset s).txBuf = [] := rfl
@[simp] theorem eventReset_txLen : (eventReset s).txLen = 0 := rfl
@[simp] theorem eventReset_crcReg : (eventReset s).crcReg = crcInitValue := rfl
@[simp] theorem eventReset_crcErrCnt : (eventReset s).crcErrCnt = 0#16 := rfl
@[simp] theorem eventReset_ovfCnt : (eventReset s).ovfCnt = 0#16 := rfl
@[simp] theorem eventReset_cfgSlaveAddr : (eventReset s).cfgSlaveAddr = s.params.slaveAddr := rfl
@[simp] theorem eventReset_cfgTSilence : (eventReset s).cfgTSilence = s.params.tSilence := rfl
@[simp] theorem eventReset_cfgFuncEn : (eventReset s).cfgFuncEn = s.params.funcEn := rfl
@[simp] theorem eventReset_params : (eventReset s).params = s.params := rfl
@[simp] theorem eventReset_dm : (eventReset s).dm = s.dm := rfl
@[simp] theorem eventReset_txInFlight : (eventReset s).txInFlight = s.txInFlight := rfl
@[simp] theorem eventReset_inputs : (eventReset s).inputs = s.inputs := rfl
@[simp] theorem eventReset_out : (eventReset s).out = s.out := rfl
@[simp] theorem eventReset_trace : (eventReset s).trace = s.trace := rfl

end Sys2Proof.Machine
end

