-- ==== Sys2Proof/Laws/Ops.lean ====
section
/-! SUPPORT. What the shared operations that compose and transmit a response do, once and for all. -/

namespace Sys2Proof.Machine

@[simp] theorem andThen_next (s : State) (f : State → Outcome) : andThen (.next s) f = f s := rfl
@[simp] theorem andThen_fault (r : Fault) (f : State → Outcome) : andThen (.fault r) f = .fault r := rfl
@[simp] theorem andThen_refused (r : Refusal) (f : State → Outcome) : andThen (.refused r) f = .refused r := rfl

theorem andThen_eq_next {o : Outcome} {f : State → Outcome} {t : State} (h : andThen o f = .next t) :
    ∃ u, o = .next u ∧ f u = .next t := by
  cases o with
  | next u => exact ⟨u, rfl, h⟩
  | fault r => cases h
  | refused r => cases h

@[simp] theorem framed_length (order : CrcOrder) (body : List Byte) : (framed order body).length = body.length + 2 := by
  simp [framed]

/-- The frame of a response: address, PDU and CRC suffix. -/
def responseFrame (s : State) (pdu : List Byte) : List Byte := framed s.params.crcWireOrder (s.cfgSlaveAddr :: pdu)

@[simp] theorem responseFrame_length (s : State) (pdu : List Byte) : (responseFrame s pdu).length = pdu.length + 3 := by
  simp [responseFrame]

/-- The state after the frame `q` was loaded and handed off. -/
def sent (q : List Byte) (s : State) : State :=
  emit (.transmit q)
    { s with
      txBuf := s.txBuf.writeAll 0 q
      txLen := q.length
      mode := .transmitting
      de := true
      txInFlight := s.txInFlight ++ [q] }

theorem loadTx_startTx {q : List Byte} {s : State} (h : q.length ≤ s.params.txbufSize) :
    andThen (loadTx q s) startTx = .next (sent q s) := by
  simp only [loadTx, if_pos h, andThen_next, startTx, Memory.slice_writeAll]
  rfl

theorem answer_eq {resp : List Byte} {s : State} (h : resp.length + 3 ≤ s.params.txbufSize) :
    answer resp s = .next (sent (responseFrame s resp) s) :=
  loadTx_startTx (by rw [framed_length]; simpa using h)

theorem takeException_eq {s : State} (fc code : Byte) (h : 5 ≤ s.params.txbufSize) :
    takeException fc code s = .next (sent (responseFrame s [fc ||| 0x80#8, code]) s) :=
  loadTx_startTx (by rw [framed_length]; simpa [excPdu] using h)

/-- `respond`, whole: the requests and the data model's state, then the response frame loaded and handed off. -/
theorem respond_eq {fc : Byte} {r : Dispatched DMState} {s : State} (hr : r.result.short)
    (h : 255 ≤ s.params.txbufSize) :
    respond fc r s = .next (sent (responseFrame s (responsePdu fc r)) (issued r.requests r.dm s)) := by
  unfold respond responsePdu
  cases hres : r.result with
  | ok resp =>
    simp only [hres, DispatchResult.short] at hr
    exact answer_eq (by simp only [issued_params]; omega)
  | exc code => exact takeException_eq fc code (by simp only [issued_params]; omega)

theorem sent_responded (s : State) (pdu : List Byte) (rs : List DMRequest) (d : DMState) :
    Responded s pdu rs d (sent (responseFrame s pdu) (issued rs d s)) where
  mode := rfl
  de := rfl
  txLen := responseFrame_length s pdu
  txBytes a ha := by
    change (Memory.writeAll s.txBuf 0 (responseFrame s pdu)).read? a = _
    rw [Memory.read?_writeAll, if_pos (by simpa using ha), Nat.sub_zero]
    rfl
  txOther a ha := by
    change (Memory.writeAll s.txBuf 0 (responseFrame s pdu)).read? a = _
    rw [Memory.read?_writeAll, if_neg (by simpa using ha)]
  rxBuf _ := rfl
  rxLen := rfl
  lastRxTime := rfl
  lastTxTime := rfl
  crcReg := rfl
  crcErrCnt := rfl
  ovfCnt := rfl
  cfgSlaveAddr := rfl
  cfgTSilence := rfl
  cfgFuncEn := rfl
  params := rfl
  dm := rfl
  txInFlight := rfl
  inputs := rfl
  out := rfl
  trace := rfl

/-- `respond` answers a next state, and that state is the response's. -/
theorem respond_responded {fc : Byte} {r : Dispatched DMState} {s : State} (hr : r.result.short)
    (h : 255 ≤ s.params.txbufSize) :
    ∃ t, respond fc r s = .next t ∧ Responded s (responsePdu fc r) r.requests r.dm t :=
  ⟨_, respond_eq hr h, sent_responded s _ _ _⟩

end Sys2Proof.Machine
end

