-- ==== Sys2Proof/Laws/PerInstr.lean ====
section
/-! SUPPORT. Facts about every instruction as syntax, one lemma per constructor. -/

namespace Sys2Proof.Laws.EncodeHead

/-- The PDU of an instruction is its function code, PDU byte 0, and then its payload (R73, R120). -/
def Statement (i : Instr) : Prop := encode i = i.fc :: (encode i).tail

theorem readCoils (a : ReadArgs) : Statement (.readCoils a) := rfl
theorem readDiscreteInputs (a : ReadArgs) : Statement (.readDiscreteInputs a) := rfl
theorem readHoldingRegisters (a : ReadArgs) : Statement (.readHoldingRegisters a) := rfl
theorem readInputRegisters (a : ReadArgs) : Statement (.readInputRegisters a) := rfl
theorem writeSingleCoil (a : WriteArgs) : Statement (.writeSingleCoil a) := rfl
theorem writeSingleRegister (a : WriteArgs) : Statement (.writeSingleRegister a) := rfl
theorem writeMultipleCoils (a : MultiArgs) : Statement (.writeMultipleCoils a) := rfl
theorem writeMultipleRegisters (a : MultiArgs) : Statement (.writeMultipleRegisters a) := rfl
theorem illegalFunction (fc : Byte) (payload : List Byte) : Statement (.illegalFunction fc payload) := rfl

end Sys2Proof.Laws.EncodeHead
end

