-- ==== Sys2Proof/Laws/Step.lean ====
section
/-! SUPPORT. What a meaning, an event and a step can do, said once: later proofs cite these and do not unfold the step. -/

namespace Sys2Proof.Machine

/-- Every meaning is the dispatcher's procedure on the state's data model, then the response. -/
theorem exec_eq_respond (i : Instr) (s : State) : exec i s = respond i.fc (dispatchWith DMState.model i s.dm) s := by
  cases i <;> rfl

/-- The state a meaning answers. -/
theorem exec_eq_sent (i : Instr) {s : State} (h : 255 ≤ s.params.txbufSize) :
    exec i s = .next (sent (responseFrame s (responsePdu i.fc (dispatchWith DMState.model i s.dm)))
      (issued (dispatchWith DMState.model i s.dm).requests (dispatchWith DMState.model i s.dm).dm s)) := by
  rw [exec_eq_respond]
  exact respond_eq (dispatchWith_short _ _ _) h

/-- The only thing that can stop a response is a frame longer than the transmit buffer. -/
theorem loadTx_startTx_cases {q : List Byte} {s t : State} (h : andThen (loadTx q s) startTx = .next t) :
    q.length ≤ s.params.txbufSize ∧ t = sent q s := by
  by_cases hq : q.length ≤ s.params.txbufSize
  · rw [loadTx_startTx hq] at h
    cases h
    exact ⟨hq, rfl⟩
  · simp only [loadTx, if_neg hq, andThen_fault, reduceCtorEq] at h

/-- The response frame of an instruction at a state. -/
def instrFrame (i : Instr) (s : State) : List Byte :=
  responseFrame s (responsePdu i.fc (dispatchWith DMState.model i s.dm))

/-- The state after a meaning, where it answers one. -/
def afterInstr (i : Instr) (s : State) : State :=
  sent (instrFrame i s)
    (issued (dispatchWith DMState.model i s.dm).requests (dispatchWith DMState.model i s.dm).dm s)

/-- Everything a meaning can do: it answers a next state exactly when its frame fits, and always the same one. -/
theorem exec_eq_next_iff {i : Instr} {s t : State} :
    exec i s = .next t ↔ (instrFrame i s).length ≤ s.params.txbufSize ∧ t = afterInstr i s := by
  have fwd : (instrFrame i s).length ≤ s.params.txbufSize → exec i s = .next (afterInstr i s) := fun h => by
    rw [exec_eq_respond]
    unfold afterInstr instrFrame respond responsePdu at *
    cases hr : (dispatchWith DMState.model i s.dm).result with
    | ok resp => rw [hr] at h; exact loadTx_startTx h
    | exc c => rw [hr] at h; exact loadTx_startTx h
  refine ⟨fun h => ?_, fun h => h.2 ▸ fwd h.1⟩
  have hx := h
  rw [exec_eq_respond] at hx
  have hlen : (instrFrame i s).length ≤ s.params.txbufSize := by
    unfold respond at hx
    unfold instrFrame responsePdu
    cases hr : (dispatchWith DMState.model i s.dm).result with
    | ok resp => rw [hr] at hx; exact (loadTx_startTx_cases hx).1
    | exc c => rw [hr] at hx; exact (loadTx_startTx_cases hx).1
  refine ⟨hlen, ?_⟩
  rw [fwd hlen] at h
  cases h
  rfl

/-- What a step can do. -/
theorem step_cases {s t : State} (h : step s = .next t) :
    (s.inputs = [] ∧ t = s) ∨
    ∃ e rest u, s.inputs = e :: rest ∧ handle e (deliver rest s) = .next u ∧ t = closeEvent e u := by
  unfold step at h
  split at h
  · rename_i hin
    cases h
    exact .inl ⟨hin, rfl⟩
  · rename_i e rest hin
    obtain ⟨u, hu, ht⟩ := andThen_eq_next h
    cases ht
    exact .inr ⟨e, rest, u, hin, hu, rfl⟩

/-- A step on a delivered event, forwards. -/
theorem step_of_handle {s u : State} {e : Event} {rest : List Event} (hin : s.inputs = e :: rest)
    (h : handle e (deliver rest s) = .next u) : step s = .next (closeEvent e u) := by
  simp only [step, hin, runEvent, h, andThen_next]

theorem step_idle {s : State} (h : s.inputs = []) : step s = .next s := by simp only [step, h]

/-- What the byte event can do. -/
theorem eventByte_cases {b : Byte} {now : Time} {s t : State} (h : eventByte b now s = .next t) :
    (s.mode = .transmitting ∧ t = s) ∨
    (s.mode = .receiving ∧ s.rxLen = s.params.bufSize ∧ 0 < s.params.bufSize ∧
      t = { s with rxBuf := s.rxBuf.write 0 b, rxLen := 1, lastRxTime := now, ovfCnt := s.ovfCnt + 1#16 }) ∨
    (s.mode = .receiving ∧ s.rxLen < s.params.bufSize ∧
      t = { s with rxBuf := s.rxBuf.write s.rxLen b, rxLen := s.rxLen + 1, lastRxTime := now }) := by
  unfold eventByte at h
  split at h <;> rename_i hm
  · by_cases hfull : s.rxLen = s.params.bufSize
    · simp only [if_pos hfull, appendByte, wrapRx] at h
      split at h <;> rename_i hlt
      · cases h
        exact .inr (.inl ⟨hm, hfull, hlt, rfl⟩)
      · cases h
    · simp only [if_neg hfull, appendByte] at h
      split at h <;> rename_i hlt
      · cases h
        exact .inr (.inr ⟨hm, hlt, rfl⟩)
      · cases h
  · cases h
    exact .inl ⟨hm, rfl⟩

/-- What the poll event can do: nothing, one of the three drops, or the request of an accepted frame. -/
theorem eventPoll_cases {now : Time} {s t : State} (h : eventPoll now s = .next t) :
    (frameEnds now s = false ∧ t = s) ∨
    (frameEnds now s = true ∧ ∃ f, rxFrame s = .ok f ∧
      ((lengthGate s f = false ∧ t = dropFrame s) ∨
       (lengthGate s f = true ∧ addressGate s f = false ∧ t = dropFrame s) ∨
       (lengthGate s f = true ∧ addressGate s f = true ∧ crcGate s f = false ∧ t = dropFrame (countCrcErr s)) ∨
       (lengthGate s f = true ∧ addressGate s f = true ∧ crcGate s f = true ∧
         ∃ i, decode s.cfgFuncEn (pduOf f) = .ok i ∧ exec i s = .next t))) := by
  unfold eventPoll at h
  split at h <;> rename_i hf
  · refine .inr ⟨hf, ?_⟩
    unfold frameEnd at h
    split at h
    · cases h
    · rename_i f hrx
      refine ⟨f, hrx, ?_⟩
      unfold gates at h
      by_cases h1 : lengthGate s f = false
      · rw [if_pos h1] at h
        cases h
        exact .inl ⟨h1, rfl⟩
      · rw [if_neg h1] at h
        rw [Bool.not_eq_false] at h1
        by_cases h2 : addressGate s f = false
        · rw [if_pos h2] at h
          cases h
          exact .inr (.inl ⟨h1, h2, rfl⟩)
        · rw [if_neg h2] at h
          rw [Bool.not_eq_false] at h2
          by_cases h3 : crcGate s f = false
          · rw [if_pos h3] at h
            cases h
            exact .inr (.inr (.inl ⟨h1, h2, h3, rfl⟩))
          · rw [if_neg h3] at h
            rw [Bool.not_eq_false] at h3
            refine .inr (.inr (.inr ⟨h1, h2, h3, ?_⟩))
            unfold runPdu at h
            split at h
            · rename_i i hi
              exact ⟨i, hi, h⟩
            · cases h
  · rw [Bool.not_eq_true] at hf
    cases h
    exact .inl ⟨hf, rfl⟩

/-- Only an empty PDU has no instruction. -/
theorem decode_ok_of_ne_nil (funcEn : BitVec 8) {p : List Byte} (h : p ≠ []) : ∃ i, decode funcEn p = .ok i := by
  cases p with
  | nil => exact absurd rfl h
  | cons fc payload =>
    by_cases he : enabled funcEn fc = true
    · exact ⟨_, by rw [decode, if_pos he]⟩
    · exact ⟨_, by rw [decode, if_neg he]⟩

theorem pduOf_length (f : List Byte) : (pduOf f).length = f.length - 3 := by simp [pduOf]; omega

/-- The PDU between the address and the suffix of a frame is the PDU it was framed from. -/
theorem pduOf_framed (order : CrcOrder) (a : Byte) (p : List Byte) : pduOf (framed order (a :: p)) = p := by
  simp [pduOf, framed]

end Sys2Proof.Machine
end

