-- ==== Sys2Proof/Tests/Slice0.lean ====
section
/-! SUPPORT. The model's own tests: the well-formedness smoke test, words written out from the spec's encodings, the vectors of
95_test_vectors.md one step at a time, and a witness for the hypotheses of every statement. -/

namespace Sys2Proof.Tests

open Sys2Proof Sys2Proof.Machine

/-! ### Helpers -/

/-- The example data model EDM of 95_test_vectors.md section 0. -/
def edm : DMState where
  script := []
  aliasBits := false
  aliasRegs := false
  coils := ⟨0, 16, [(0, true), (2, true), (3, true), (6, true), (7, true), (9, true)], [], []⟩
  discreteInputs := ⟨0, 16, [(0, true), (2, true)], [], []⟩
  holdingRegisters := ⟨0, 16, [(0, 0x000A#16), (1, 0x1234#16), (2, 0xBEEF#16)], [0], [(5, 100)]⟩
  inputRegisters := ⟨0, 16, [(0, 0x00FF#16), (1, 0xA5A5#16)], [], []⟩

/-- The state after reset with the configuration of 95_test_vectors.md section 0 and EDM. -/
def s0 : State := State.resetWith (Params.hardware 0x01#8 3#32) edm

/-- A received frame in RX_BUF, its last byte at time 107, and the event to come. -/
def holding (f : List Byte) (e : Event) : State :=
  { s0 with rxBuf := Memory.writeAll [] 0 f, rxLen := f.length, lastRxTime := 107#32, inputs := [e] }

/-- `RX_LEN` and the mode as given, and the event to come. -/
def at_ (m : Mode) (n : Nat) (e : Event) : State :=
  { s0 with mode := m, de := modeBit m, rxLen := n, lastRxTime := 107#32, inputs := [e] }

/-- A property of the next state, false where there is none. -/
def andNext (o : Outcome) (p : State → Bool) : Bool :=
  match o with
  | .next t => p t
  | _ => false

/-- The result of the step that dispatches a PDU received by `s0`: the PDU sent back and the requests made. -/
def served (pdu : List Byte) (resp : List Byte) (rs : List DMRequest) (d : DMState) : Bool :=
  andNext (runPdu pdu s0) fun t =>
    t.txInFlight == [framed .lowFirst (0x01#8 :: resp)] &&
    t.out == rs.map .dmRequest ++ [.transmit (framed .lowFirst (0x01#8 :: resp))] && t.dm == d

/-! ### Well-formedness smoke test: one ill-formed term for each check -/

theorem test_wf_refuses_long_short_read : Instr.wellFormed 0xFF#8 (.readCoils (.short [0, 0, 0, 0])) = false := by decide
theorem test_wf_refuses_long_short_write :
    Instr.wellFormed 0xFF#8 (.writeSingleCoil (.short [0, 0, 0, 0])) = false := by decide
theorem test_wf_refuses_long_short_multi :
    Instr.wellFormed 0xFF#8 (.writeMultipleCoils (.short [0, 0, 0, 0, 0])) = false := by decide
theorem test_wf_refuses_disabled_codes :
    Instr.wellFormed 0xFE#8 (.readCoils (.full 0 1 [])) = false ∧
    Instr.wellFormed 0xFD#8 (.readDiscreteInputs (.full 0 1 [])) = false ∧
    Instr.wellFormed 0xFB#8 (.readHoldingRegisters (.full 0 1 [])) = false ∧
    Instr.wellFormed 0xF7#8 (.readInputRegisters (.full 0 1 [])) = false ∧
    Instr.wellFormed 0xEF#8 (.writeSingleCoil (.full 0 0 [])) = false ∧
    Instr.wellFormed 0xDF#8 (.writeSingleRegister (.full 0 0 [])) = false ∧
    Instr.wellFormed 0xBF#8 (.writeMultipleCoils (.full 0 1 1 [0])) = false ∧
    Instr.wellFormed 0x7F#8 (.writeMultipleRegisters (.full 0 1 2 [0, 0])) = false := by decide
theorem test_wf_refuses_enabled_code_as_illegal : Instr.wellFormed 0xFF#8 (.illegalFunction 0x03#8 []) = false := by decide

/-! ### Words written out from the spec's encodings (R73 to R76, R79), and back -/

theorem test_decode_read_coils :
    decode 0xFF#8 [0x01#8, 0x00#8, 0x02#8, 0x00#8, 0x08#8] =
      .ok (.readCoils (.full 0x0002#16 0x0008#16 [])) ∧
    encode (.readCoils (.full 0x0002#16 0x0008#16 [])) =
      [0x01#8, 0x00#8, 0x02#8, 0x00#8, 0x08#8] := by decide
theorem test_decode_read_coils_short :
    decode 0xFF#8 [0x01#8, 0x00#8, 0x02#8] =
      .ok (.readCoils (.short [0x00#8, 0x02#8])) ∧
    encode (.readCoils (.short [0x00#8, 0x02#8])) =
      [0x01#8, 0x00#8, 0x02#8] := by decide
theorem test_decode_read_discrete_inputs :
    decode 0xFF#8 [0x02#8, 0x00#8, 0x01#8, 0x00#8, 0x03#8] =
      .ok (.readDiscreteInputs (.full 0x0001#16 0x0003#16 [])) ∧
    encode (.readDiscreteInputs (.full 0x0001#16 0x0003#16 [])) =
      [0x02#8, 0x00#8, 0x01#8, 0x00#8, 0x03#8] := by decide
theorem test_decode_read_holding_registers_extra_byte :
    decode 0xFF#8 [0x03#8, 0x12#8, 0x34#8, 0x00#8, 0x7D#8, 0xAA#8] =
      .ok (.readHoldingRegisters (.full 0x1234#16 0x007D#16 [0xAA#8])) ∧
    encode (.readHoldingRegisters (.full 0x1234#16 0x007D#16 [0xAA#8])) =
      [0x03#8, 0x12#8, 0x34#8, 0x00#8, 0x7D#8, 0xAA#8] := by decide
theorem test_decode_read_input_registers :
    decode 0xFF#8 [0x04#8, 0xFF#8, 0xFE#8, 0x00#8, 0x02#8] =
      .ok (.readInputRegisters (.full 0xFFFE#16 0x0002#16 [])) ∧
    encode (.readInputRegisters (.full 0xFFFE#16 0x0002#16 [])) =
      [0x04#8, 0xFF#8, 0xFE#8, 0x00#8, 0x02#8] := by decide
theorem test_decode_write_single_coil :
    decode 0xFF#8 [0x05#8, 0x00#8, 0x03#8, 0xFF#8, 0x00#8] =
      .ok (.writeSingleCoil (.full 0x0003#16 0xFF00#16 [])) ∧
    encode (.writeSingleCoil (.full 0x0003#16 0xFF00#16 [])) =
      [0x05#8, 0x00#8, 0x03#8, 0xFF#8, 0x00#8] := by decide
theorem test_decode_write_single_register :
    decode 0xFF#8 [0x06#8, 0x00#8, 0x01#8, 0xBE#8, 0xEF#8] =
      .ok (.writeSingleRegister (.full 0x0001#16 0xBEEF#16 [])) ∧
    encode (.writeSingleRegister (.full 0x0001#16 0xBEEF#16 [])) =
      [0x06#8, 0x00#8, 0x01#8, 0xBE#8, 0xEF#8] := by decide
theorem test_decode_write_multiple_coils :
    decode 0xFF#8 [0x0F#8, 0x00#8, 0x00#8, 0x00#8, 0x0A#8, 0x02#8, 0xCD#8, 0x02#8] =
      .ok (.writeMultipleCoils (.full 0x0000#16 0x000A#16 0x02#8 [0xCD#8, 0x02#8])) ∧
    encode (.writeMultipleCoils (.full 0x0000#16 0x000A#16 0x02#8 [0xCD#8, 0x02#8])) =
      [0x0F#8, 0x00#8, 0x00#8, 0x00#8, 0x0A#8, 0x02#8, 0xCD#8, 0x02#8] := by decide
theorem test_decode_write_multiple_coils_short :
    decode 0xFF#8 [0x0F#8, 0x00#8, 0x00#8, 0x00#8, 0x0A#8] =
      .ok (.writeMultipleCoils (.short [0x00#8, 0x00#8, 0x00#8, 0x0A#8])) ∧
    encode (.writeMultipleCoils (.short [0x00#8, 0x00#8, 0x00#8, 0x0A#8])) =
      [0x0F#8, 0x00#8, 0x00#8, 0x00#8, 0x0A#8] := by decide
theorem test_decode_write_multiple_registers :
    decode 0xFF#8 [0x10#8, 0x00#8, 0x01#8, 0x00#8, 0x02#8, 0x04#8, 0x00#8, 0x07#8, 0x00#8, 0x08#8] =
      .ok (.writeMultipleRegisters (.full 0x0001#16 0x0002#16 0x04#8 [0x00#8, 0x07#8, 0x00#8, 0x08#8])) ∧
    encode (.writeMultipleRegisters (.full 0x0001#16 0x0002#16 0x04#8 [0x00#8, 0x07#8, 0x00#8, 0x08#8])) =
      [0x10#8, 0x00#8, 0x01#8, 0x00#8, 0x02#8, 0x04#8, 0x00#8, 0x07#8, 0x00#8, 0x08#8] := by decide
theorem test_decode_illegal_function :
    decode 0xFF#8 [0x2B#8, 0x0E#8, 0x01#8, 0x00#8] =
      .ok (.illegalFunction 0x2B#8 [0x0E#8, 0x01#8, 0x00#8]) ∧
    encode (.illegalFunction 0x2B#8 [0x0E#8, 0x01#8, 0x00#8]) =
      [0x2B#8, 0x0E#8, 0x01#8, 0x00#8] := by decide
theorem test_decode_disabled_code : decode 0xEF#8 [0x05#8, 0x00#8, 0x03#8, 0xFF#8, 0x00#8] =
    .ok (.illegalFunction 0x05#8 [0x00#8, 0x03#8, 0xFF#8, 0x00#8]) := by decide
theorem test_decode_empty : decode 0xFF#8 [] = .error .emptyPdu := by decide
theorem test_decode_table_words :
    decodeTableWord 8 0x01 = some (.readCoils (.full 0 0 [])) ∧
    decodeTableWord 8 0x02 = some (.readDiscreteInputs (.full 0 0 [])) ∧
    decodeTableWord 8 0x03 = some (.readHoldingRegisters (.full 0 0 [])) ∧
    decodeTableWord 8 0x04 = some (.readInputRegisters (.full 0 0 [])) ∧
    decodeTableWord 8 0x05 = some (.writeSingleCoil (.full 0 0 [])) ∧
    decodeTableWord 8 0x06 = some (.writeSingleRegister (.full 0 0 [])) ∧
    decodeTableWord 8 0x0F = some (.writeMultipleCoils (.full 0 0 0 [])) ∧
    decodeTableWord 8 0x10 = some (.writeMultipleRegisters (.full 0 0 0 [])) ∧
    decodeTableWord 8 0x00 = some (.illegalFunction 0 [0, 0, 0]) ∧
    decodeTableWord 40 0x0A00020001 = some (.readCoils (.full 0x0002#16 0x000A#16 [])) := by decide

/-! ### The CRC (V-CRC-2, V-CRC-6, V-CRC-7, V-CRC-16) -/

theorem test_crc_of_zero_byte : crc16 [0x00#8] = 0x40BF#16 := by decide +kernel
theorem test_crc_check_value :
    crc16 [0x31#8, 0x32#8, 0x33#8, 0x34#8, 0x35#8, 0x36#8, 0x37#8, 0x38#8, 0x39#8] = 0x4B37#16 := by decide +kernel
theorem test_crc_wire : crcWire .lowFirst (crc16 [0x01#8, 0x03#8, 0x00#8, 0x00#8, 0x00#8, 0x01#8]) = [0x84#8, 0x0A#8] ∧
    crcWire .highFirst 0x0A84#16 = [0x0A#8, 0x84#8] := by decide +kernel
theorem test_crc_ok_only_in_wire_order :
    crcOk .lowFirst [0x01#8, 0x03#8, 0x00#8, 0x00#8, 0x00#8, 0x01#8, 0x84#8, 0x0A#8] = true ∧
    crcOk .lowFirst [0x01#8, 0x03#8, 0x00#8, 0x00#8, 0x00#8, 0x01#8, 0x0A#8, 0x84#8] = false := by decide +kernel
theorem test_crc_byte_event :
    andNext (step { s0 with inputs := [.crcByte 0x01#8] }) (fun t => t.crcReg == 0x807E#16) = true := by decide +kernel
theorem test_crc_init_event :
    andNext (step { s0 with crcReg := 0x1234#16, inputs := [.crcInit] }) (fun t => t.crcReg == 0xFFFF#16) = true := by
  decide +kernel

/-! ### Meanings (95_test_vectors.md 2.2 to 2.4): the response PDU, the requests, and EDM afterwards -/

/-- V-RD-3. -/
theorem test_read_coils : served [0x01#8, 0x00#8, 0x02#8, 0x00#8, 0x08#8]
    [0x01#8, 0x01#8, 0xB3#8]
    [.rdBits .coils 2 8]
    edm = true := by decide +kernel
/-- V-RD-6. -/
theorem test_read_coils_count_2001 : served [0x01#8, 0x00#8, 0x00#8, 0x07#8, 0xD1#8]
    [0x81#8, 0x03#8]
    []
    edm = true := by decide +kernel
/-- V-RD-19. -/
theorem test_read_discrete_inputs : served [0x02#8, 0x00#8, 0x00#8, 0x00#8, 0x03#8]
    [0x02#8, 0x01#8, 0x05#8]
    [.rdBits .discreteInputs 0 3]
    edm = true := by decide +kernel
/-- V-RD-21. -/
theorem test_read_discrete_inputs_count_2001 : served [0x02#8, 0x00#8, 0x00#8, 0x07#8, 0xD1#8]
    [0x82#8, 0x03#8]
    []
    edm = true := by decide +kernel
/-- V-RD-9. -/
theorem test_read_holding_registers : served [0x03#8, 0x00#8, 0x00#8, 0x00#8, 0x03#8]
    [0x03#8, 0x06#8, 0x00#8, 0x0A#8, 0x12#8, 0x34#8, 0xBE#8, 0xEF#8]
    [.rdRegs .holdingRegisters 0 3]
    edm = true := by decide +kernel
/-- V-RD-16. -/
theorem test_read_holding_registers_past_the_end : served [0x03#8, 0xFF#8, 0xFF#8, 0x00#8, 0x02#8]
    [0x83#8, 0x02#8]
    []
    edm = true := by decide +kernel
/-- V-RD-22. -/
theorem test_read_input_registers : served [0x04#8, 0x00#8, 0x00#8, 0x00#8, 0x02#8]
    [0x04#8, 0x04#8, 0x00#8, 0xFF#8, 0xA5#8, 0xA5#8]
    [.rdRegs .inputRegisters 0 2]
    edm = true := by decide +kernel
/-- V-RD-24. -/
theorem test_read_input_registers_count_126 : served [0x04#8, 0x00#8, 0x00#8, 0x00#8, 0x7E#8]
    [0x84#8, 0x03#8]
    []
    edm = true := by decide +kernel
/-- V-WR-2. -/
theorem test_write_single_coil : served [0x05#8, 0x00#8, 0x03#8, 0x00#8, 0x00#8]
    [0x05#8, 0x00#8, 0x03#8, 0x00#8, 0x00#8]
    [.wrCoil 3 false]
    { edm with coils := ⟨0, 16, [(0, true), (2, true), (6, true), (7, true), (9, true)], [], []⟩ } = true := by decide +kernel
/-- V-WR-5. -/
theorem test_write_single_coil_bad_value : served [0x05#8, 0x00#8, 0x03#8, 0xFF#8, 0x01#8]
    [0x85#8, 0x03#8]
    []
    edm = true := by decide +kernel
/-- V-WR-11. -/
theorem test_write_single_register : served [0x06#8, 0x00#8, 0x05#8, 0x00#8, 0x64#8]
    [0x06#8, 0x00#8, 0x05#8, 0x00#8, 0x64#8]
    [.wrReg 5 0x64]
    { edm with holdingRegisters := ⟨0, 16, [(0, 0x000A#16), (1, 0x1234#16), (2, 0xBEEF#16), (5, 0x64#16)], [0], [(5, 100)]⟩ } = true := by decide +kernel
/-- V-WR-9. -/
theorem test_write_single_register_denied : served [0x06#8, 0x00#8, 0x00#8, 0x00#8, 0x63#8]
    [0x86#8, 0x02#8]
    [.wrReg 0 0x63]
    edm = true := by decide +kernel
/-- V-WR-21. -/
theorem test_write_multiple_coils : served [0x0F#8, 0x00#8, 0x00#8, 0x00#8, 0x08#8, 0x01#8, 0xA5#8, 0xEE#8]
    [0x0F#8, 0x00#8, 0x00#8, 0x00#8, 0x08#8]
    [.wrCoil 0 true, .wrCoil 1 false, .wrCoil 2 true, .wrCoil 3 false, .wrCoil 4 false, .wrCoil 5 true, .wrCoil 6 false,
      .wrCoil 7 true]
    { edm with coils := ⟨0, 16, [(0, true), (2, true), (5, true), (7, true), (9, true)], [], []⟩ } = true := by decide +kernel
/-- V-WR-17. -/
theorem test_write_multiple_coils_partial : served [0x0F#8, 0x00#8, 0x0E#8, 0x00#8, 0x04#8, 0x01#8, 0x0F#8]
    [0x8F#8, 0x02#8]
    [.wrCoil 14 true, .wrCoil 15 true, .wrCoil 16 true]
    { edm with coils := ⟨0, 16, [(0, true), (2, true), (3, true), (6, true), (7, true), (9, true), (14, true), (15, true)], [], []⟩ } = true := by decide +kernel
/-- V-WR-24. -/
theorem test_write_multiple_registers : served [0x10#8, 0x00#8, 0x01#8, 0x00#8, 0x02#8, 0x04#8, 0x00#8, 0x07#8, 0x00#8, 0x08#8]
    [0x10#8, 0x00#8, 0x01#8, 0x00#8, 0x02#8]
    [.wrReg 1 7, .wrReg 2 8]
    { edm with holdingRegisters := ⟨0, 16, [(0, 0x000A#16), (1, 7#16), (2, 8#16)], [0], [(5, 100)]⟩ } = true := by decide +kernel
/-- V-WR-30. -/
theorem test_write_multiple_registers_partial : served [0x10#8, 0x00#8, 0x04#8, 0x00#8, 0x03#8, 0x06#8, 0x00#8, 0x01#8, 0x00#8, 0x65#8, 0x00#8, 0x02#8]
    [0x90#8, 0x03#8]
    [.wrReg 4 1, .wrReg 5 0x65]
    { edm with holdingRegisters := ⟨0, 16, [(0, 0x000A#16), (1, 0x1234#16), (2, 0xBEEF#16), (4, 1#16)], [0], [(5, 100)]⟩ } = true := by decide +kernel
/-- V-DSP-5. -/
theorem test_illegal_function : served [0x2B#8, 0x0E#8, 0x01#8, 0x00#8]
    [0xAB#8, 0x01#8]
    []
    edm = true := by decide +kernel
/-- V-DSP-4. -/
theorem test_illegal_function_high_bit : served [0xFF#8]
    [0xFF#8, 0x01#8]
    []
    edm = true := by decide +kernel

/-! ### Steps of the framer (95_test_vectors.md 2.5), each from the state its vector names -/

/-- Scenario A: the frame is accepted, answered and handed off (P1, V-FR-6). -/
theorem test_poll_serves_frame :
    andNext (step (holding [0x01#8, 0x03#8, 0x00#8, 0x00#8, 0x00#8, 0x01#8, 0x84#8, 0x0A#8] (.poll 111#32))) (fun t =>
      t.mode == .transmitting && t.de && t.txLen == 7 && t.rxLen == 8 &&
      t.txInFlight == [[0x01#8, 0x03#8, 0x02#8, 0x00#8, 0x0A#8, 0x38#8, 0x43#8]]) = true := by decide +kernel
/-- V-FR-5: silence 3 is not above 3. -/
theorem test_poll_at_threshold_does_nothing :
    andNext (step (holding [0x01#8, 0x03#8, 0x00#8, 0x00#8, 0x00#8, 0x01#8, 0x84#8, 0x0A#8] (.poll 110#32))) (fun t =>
      t.mode == .receiving && t.rxLen == 8 && t.txInFlight == []) = true := by decide +kernel
/-- V-FR-9 and V-FR-10: silence across the wrap of time. -/
theorem test_silence_wraps :
    frameEnds 0x00000001#32 { at_ .receiving 8 .rxErr with lastRxTime := 0xFFFFFFFE#32 } = false ∧
    frameEnds 0x00000002#32 { at_ .receiving 8 .rxErr with lastRxTime := 0xFFFFFFFE#32 } = true := by decide
/-- V-FR-12: six bytes are a length drop. -/
theorem test_length_drop :
    andNext (step (holding [0x01#8, 0x03#8, 0x00#8, 0x00#8, 0x00#8, 0x01#8] (.poll 111#32))) (fun t =>
      t.rxLen == 0 && t.crcErrCnt == 0#16 && t.mode == .receiving) = true := by decide +kernel
/-- V-FR-15: another address beats a wrong CRC. -/
theorem test_address_drop_before_crc :
    andNext (step (holding [0x02#8, 0x03#8, 0x00#8, 0x00#8, 0x00#8, 0x01#8, 0x84#8, 0x0A#8] (.poll 111#32))) (fun t =>
      t.rxLen == 0 && t.crcErrCnt == 0#16 && t.mode == .receiving) = true := by decide +kernel
/-- V-FR-14: a wrong CRC is counted. -/
theorem test_crc_drop_counts :
    andNext (step (holding [0x01#8, 0x03#8, 0x00#8, 0x00#8, 0x00#8, 0x01#8, 0x84#8, 0x0B#8] (.poll 111#32))) (fun t =>
      t.rxLen == 0 && t.crcErrCnt == 1#16 && t.mode == .receiving && t.txInFlight == []) = true := by decide +kernel
/-- V-FR-16: seven bytes pass the length gate; the short PDU gets code 3. -/
theorem test_seven_byte_frame_is_answered :
    andNext (step (holding [0x01#8, 0x03#8, 0x00#8, 0x00#8, 0x00#8, 0x19#8, 0x84#8] (.poll 111#32))) (fun t =>
      t.txInFlight == [[0x01#8, 0x83#8, 0x03#8, 0x01#8, 0x31#8]]) = true := by decide +kernel
/-- V-FR-1. -/
theorem test_byte_appends :
    andNext (step (at_ .receiving 2 (.byte 0x00#8 105#32))) (fun t =>
      t.rxBuf.read? 2 == some 0x00#8 && t.rxLen == 3 && t.lastRxTime == 105#32) = true := by decide
/-- V-FR-2. -/
theorem test_byte_wraps_when_full :
    andNext (step (at_ .receiving 256 (.byte 0x84#8 601#32))) (fun t =>
      t.rxBuf.read? 0 == some 0x84#8 && t.rxLen == 1 && t.ovfCnt == 1#16 && t.lastRxTime == 601#32) = true := by decide
/-- V-FR-3. -/
theorem test_byte_256_fits :
    andNext (step (at_ .receiving 255 (.byte 0x11#8 9#32))) (fun t => t.rxLen == 256 && t.ovfCnt == 0#16) = true := by decide
/-- V-FR-4. -/
theorem test_byte_lost_while_transmitting :
    andNext (step (at_ .transmitting 8 (.byte 0x55#8 112#32))) (fun t =>
      t.rxLen == 8 && t.lastRxTime == 107#32 && t.rxBuf == []) = true := by decide
/-- V-FR-18: ERROR is handled like OK. -/
theorem test_txdone_error :
    andNext (step (at_ .transmitting 8 (.txDone 215#32 .error))) (fun t =>
      t.mode == .receiving && !t.de && t.lastTxTime == 215#32 && t.rxLen == 0) = true := by decide
/-- V-FR-19. -/
theorem test_txdone_while_receiving :
    andNext (step (at_ .receiving 3 (.txDone 9#32 .ok))) (fun t =>
      t.mode == .receiving && t.rxLen == 3 && t.lastTxTime == 0#32) = true := by decide
/-- V-FR-20. -/
theorem test_rxerr_while_receiving :
    andNext (step (at_ .receiving 4 .rxErr)) (fun t =>
      t.rxLen == 0 && !t.de && t.lastRxTime == 107#32) = true := by decide
/-- V-FR-21. -/
theorem test_rxerr_while_transmitting :
    andNext (step (at_ .transmitting 4 .rxErr)) (fun t => t.rxLen == 4 && t.de && t.mode == .transmitting) = true := by decide
/-- V-ST-7: a reset during a transmission; the data model and the transmitter stay. -/
theorem test_reset_event :
    andNext (step { at_ .transmitting 8 .reset with txInFlight := [[0x01#8]] }) (fun t =>
      t.mode == .receiving && !t.de && t.rxLen == 0 && t.lastRxTime == 0#32 && t.crcReg == 0xFFFF#16 && t.dm == edm &&
      t.txInFlight == [[0x01#8]]) = true := by decide

/-! ### The status port (95_test_vectors.md 2.6) -/

theorem test_status_after_reset : regRead s0 0 = 0x00000004#32 ∧ regRead s0 6 = 0x01#32 ∧ regRead s0 7 = 3#32 ∧
    regRead s0 8 = 0xFF#32 ∧ regRead s0 9 = 0x0000FFFF#32 ∧ regRead s0 10 = 0#32 ∧ regRead s0 0xFFFFFFFF = 0#32 := by
  decide
theorem test_status_while_transmitting : regRead (at_ .transmitting 8 .rxErr) 0 = 0x00000003#32 ∧
    regRead (at_ .transmitting 8 .rxErr) 1 = 8#32 := by decide

/-! ### Table words run as the first instruction after reset -/

theorem test_every_table_word_runs : (List.map
    (fun w => andNext (step (State.reset.withFetchWord 8 w)) fun t => t.mode == .transmitting && t.txInFlight.length == 1)
    [0x01, 0x02, 0x03, 0x04, 0x05, 0x06, 0x0F, 0x10, 0x00]).all id = true := by decide +kernel

/-! ### Witnesses: for each statement with hypotheses, a state and operands that meet them all -/

/-- A read-holding-registers request, whole frame (95_test_vectors.md Scenario A). -/
def frameA : List Byte := [0x01#8, 0x03#8, 0x00#8, 0x00#8, 0x00#8, 0x01#8, 0x84#8, 0x0A#8]

theorem next_of {o : Outcome} {p : State → Bool} (h : andNext o p = true) : ∃ t, o = .next t ∧ p t = true := by
  cases o with
  | next t => exact ⟨t, rfl, h⟩
  | fault r => cases h
  | refused r => cases h

/-- The invariant of a state that holds a received frame. -/
theorem holding_inv (f : List Byte) (e : Event) (h : f.length ≤ 256) : BlockInv (holding f e) where
  legal := show (Params.hardware 0x01#8 3#32).legal by decide
  rxLen_le := h
  rxBuf_wf := Memory.wf_writeAll f rfl 0
  rxBuf_held := Memory.heldBelow_writeAll [] f
  rxBuf_within := Memory.within_writeAll (Memory.within_nil 256) f (by simpa using h)
  txLen_le := Nat.zero_le 256
  txBuf_wf := rfl
  txBuf_held := Memory.heldBelow_zero []
  txBuf_within := Memory.within_nil 256
  de_iff := show (false = true ↔ Mode.receiving = .transmitting) by decide
  cfgSlaveAddr_eq := rfl
  cfgTSilence_eq := rfl
  cfgFuncEn_eq := rfl
  dm_wf := show edm.wf = true by decide

/-- A poll at 111 ends any nonempty frame whose last byte came at 107. -/
theorem holding_ends (f : List Byte) (h : 0 < f.length) :
    FrameEndsAt (holding f (.poll 111#32)) 111#32 [] f where
  event := rfl
  mode := rfl
  nonempty := h
  silence := show (3 : Nat) < (111 + (2 ^ 32 - 107)) % 2 ^ 32 by decide
  frame := Memory.slice_writeAll [] 0 f

theorem witness_decode_of_encode :
    ([.readCoils (.short []), .readDiscreteInputs (.short [0, 0, 0]), .readHoldingRegisters (.full 0xFFFF 0xFFFF [0xAA]),
      .readInputRegisters (.full 0 125 []), .writeSingleCoil (.full 3 0xFF00 []), .writeSingleRegister (.short [0x00]),
      .writeMultipleCoils (.short [0, 0, 0, 0]), .writeMultipleRegisters (.full 1 2 4 [0, 7, 0, 8]),
      .illegalFunction 0x80 [0x01]].all (Instr.wellFormed 0xFF#8)) = true ∧
    Instr.wellFormed 0xEF#8 (.illegalFunction 0x05 [0, 3, 0xFF, 0]) = true := by decide

theorem witness_encode_of_decode : decode 0xFF#8 [0x01#8] = .ok (.readCoils (.short [])) := by decide

theorem witness_placed_table_word : State.reset.cfgFuncEn = 0xFF#8 ∧ State.reset.params.minFrameLen ≤ 6 ∧
    decodeTableWord 8 0x10 = some (.writeMultipleRegisters (.full 0 0 0 [])) := by decide

theorem witness_crc_strobes : (at_ .receiving 0 .crcInit).inputs = [.crcInit] ∧
    (at_ .transmitting 8 (.crcByte 0xFF#8)).inputs = [.crcByte 0xFF#8] := ⟨rfl, rfl⟩

/-- Two data strobes with a byte of a frame between them; and the init strobe alone. -/
theorem witness_crc_unit :
    BlockInv { s0 with inputs := .crcInit :: [.crcByte 1#8, .byte 1#8 5#32, .crcByte 2#8] ++ [.rxErr] } ∧
    (∀ e ∈ [Event.crcByte 1#8, .byte 1#8 5#32, .crcByte 2#8], e ≠ .crcInit ∧ e ≠ .reset) ∧
    BlockInv { s0 with inputs := .crcInit :: [] } :=
  ⟨{ holding_inv [] .rxErr (by decide) with }, by decide, { holding_inv [] .rxErr (by decide) with }⟩

theorem witness_crc_outputs : s0.params.crcWireOrder = .lowFirst ∧
    ({ s0 with params := { s0.params with crcWireOrder := .highFirst } } : State).params.crcWireOrder = .highFirst := ⟨rfl, rfl⟩

theorem witness_residue : 2 ≤ ([0xFF#8, 0xFF#8] : List Byte).length := by decide

theorem witness_single_errors :
    ([0x01#8] ++ crcWire .lowFirst (crc16 [0x01#8]))[0]? = some 0x01#8 ∧
    ([0x01#8] ++ crcWire .lowFirst (crc16 [0x01#8]))[2]? = some 0x80#8 ∧
    ([0x01#8] ++ crcWire .highFirst (crc16 [0x01#8]))[2]? = some 0x7E#8 ∧ 0 < 8 ∧ 7 < 8 ∧ (0x81#8 : Byte) ≠ 0x80#8 := by
  decide +kernel

theorem witness_crc_reg_changes :
    (∃ t, step { s0 with crcReg := 0x1234#16, inputs := [.crcInit] } = .next t ∧ decide (t.crcReg ≠ 0x1234#16) = true) ∧
    (∃ t, step { s0 with inputs := [.crcByte 0x01#8] } = .next t ∧ decide (t.crcReg ≠ 0xFFFF#16) = true) ∧
    (∃ t, step { s0 with crcReg := 0x1234#16, inputs := [.reset] } = .next t ∧ decide (t.crcReg ≠ 0x1234#16) = true) :=
  ⟨next_of (by decide +kernel), next_of (by decide +kernel), next_of (by decide +kernel)⟩

theorem witness_status_port : (at_ .receiving 65535 .rxErr).rxLen ≤ 65535 ∧ 10 ≤ 10 := by decide

theorem witness_reset_event : (at_ .transmitting 8 .reset).inputs = [.reset] := rfl

/-- Legal parameters at both ends of their ranges. -/
theorem witness_legal_params :
    Params.legal ⟨0x00#8, 0#32, 4, 3, 0x00#8, .highFirst, 255⟩ ∧
    Params.legal ⟨0xFF#8, 0xFFFFFFFF#32, 65535, 65534, 0xFF#8, .lowFirst, 256⟩ ∧
    Params.legal (Params.hardware 0x01#8 3#32) ∧ edm.wf = true := by decide

theorem witness_invariant : BlockInv (holding frameA (.poll 111#32)) ∧ BlockInv (holding [] .rxErr) ∧
    BlockInv (holding (List.replicate 256 0x11#8) (.byte 0x22#8 0#32)) :=
  ⟨holding_inv _ _ (by decide), holding_inv _ _ (by decide), holding_inv _ _ (Nat.le_of_eq List.length_replicate)⟩

theorem witness_driver_enable :
    ((holding frameA (.poll 111#32)).de = true ↔ (holding frameA (.poll 111#32)).mode = .transmitting) ∧
    (∃ t, step (holding frameA (.poll 111#32)) = .next t ∧ t.de = true) ∧
    ((at_ .transmitting 8 (.txDone 1#32 .ok)).de = true ↔ (at_ .transmitting 8 (.txDone 1#32 .ok)).mode = .transmitting) ∧
    (∃ t, step (at_ .transmitting 8 (.txDone 1#32 .ok)) = .next t ∧ (!t.de) = true) :=
  ⟨by decide, next_of (by decide +kernel), by decide, next_of (by decide +kernel)⟩

theorem witness_mode_changes :
    (∃ t, step (holding frameA (.poll 111#32)) = .next t ∧
      decide (t.mode ≠ (holding frameA (.poll 111#32)).mode) = true) ∧
    (∃ t, step (at_ .transmitting 8 (.txDone 1#32 .ok)) = .next t ∧ decide (t.mode ≠ .transmitting) = true) ∧
    (∃ t, step (at_ .transmitting 8 .reset) = .next t ∧ decide (t.mode ≠ .transmitting) = true) :=
  ⟨next_of (by decide +kernel), next_of (by decide +kernel), next_of (by decide +kernel)⟩

theorem witness_configuration :
    (∃ t, step (at_ .receiving 0 .reset) = .next t ∧ true = true) ∧ (∃ rest, (at_ .receiving 0 .reset).inputs = .reset :: rest) ∧
    (∃ t, step (at_ .receiving 0 .rxErr) = .next t ∧ true = true) ∧
    ¬∃ rest, (at_ .receiving 0 .rxErr).inputs = .reset :: rest :=
  ⟨next_of (by decide), ⟨_, rfl⟩, next_of (by decide), fun ⟨_, h⟩ => (by cases h)⟩

/-- Other bytes above RX_LEN and TX_LEN, at an accepted frame's end. -/
theorem witness_stale_bytes :
    (∀ a, a < (holding frameA (.poll 111#32)).rxLen →
      ((holding frameA (.poll 111#32)).rxBuf.write 8 0x55#8).read? a = (holding frameA (.poll 111#32)).rxBuf.read? a) ∧
    (∀ a, a < (holding frameA (.poll 111#32)).txLen →
      (Memory.write [] 0 0x66#8).read? a = (holding frameA (.poll 111#32)).txBuf.read? a) ∧
    ∃ t, step (holding frameA (.poll 111#32)) = .next t ∧ true = true :=
  ⟨fun a ha => Memory.read?_write_other _ _ (by have : a < 8 := ha; omega), fun _ ha => absurd ha (Nat.not_lt_zero _),
    next_of (by decide +kernel)⟩

theorem witness_trace : (holding frameA (.poll 111#32)).inputs = [.poll 111#32] ∧
    ∃ t, step (holding frameA (.poll 111#32)) = .next t ∧ true = true := ⟨rfl, next_of (by decide +kernel)⟩

theorem witness_one_in_flight :
    OneInFlight (holding frameA (.poll 111#32)) ∧ (¬∃ rest, (holding frameA (.poll 111#32)).inputs = .reset :: rest) ∧
    (∃ t, step (holding frameA (.poll 111#32)) = .next t ∧ true = true) ∧
    OneInFlight { at_ .transmitting 8 (.txDone 1#32 .ok) with txInFlight := [[0x01#8]] } ∧
    OneInFlight (at_ .receiving 0 .reset) ∧ (at_ .receiving 0 .reset).mode = .receiving :=
  ⟨.inl ⟨rfl, rfl⟩, fun ⟨_, h⟩ => (by cases h), next_of (by decide +kernel), .inr ⟨rfl, _, rfl⟩, .inl ⟨rfl, rfl⟩, rfl⟩

/-- An empty buffer, one with one place left, and a full one. -/
theorem witness_byte : ∀ n ∈ [0, 255, 256], (at_ .receiving n (.byte 1#8 2#32)).inputs = [.byte 1#8 2#32] ∧
    (at_ .receiving n (.byte 1#8 2#32)).mode = .receiving ∧ 0 < (at_ .receiving n (.byte 1#8 2#32)).params.bufSize ∧
    (at_ .receiving n (.byte 1#8 2#32)).rxLen ≤ (at_ .receiving n (.byte 1#8 2#32)).params.bufSize := by decide

theorem witness_lost_byte : (at_ .transmitting 8 (.byte 1#8 2#32)).inputs = [.byte 1#8 2#32] ∧
    (at_ .transmitting 8 (.byte 1#8 2#32)).mode = .transmitting := by decide

/-- A burst of one byte, and one that fills a buffer of seven bytes. -/
theorem witness_burst :
    (({ s0 with inputs := [.byte 1#8 5#32] } : State).inputs = byteEvents ([] ++ [(1#8, 5#32)]) ++ []) ∧
    (([] : List (Byte × Time)).length + 1 ≤ s0.params.bufSize) ∧ s0.mode = .receiving ∧ s0.rxLen = 0 ∧
    ((List.replicate 6 ((0#8, 1#32) : Byte × Time)).length + 1 ≤
      ({ s0 with params := { s0.params with bufSize := 7 } } : State).params.bufSize) := by decide

/-- In TRANSMITTING; with an empty buffer; at exactly the threshold; at the same instant. -/
theorem witness_poll_without_frame_end :
    (at_ .transmitting 8 (.poll 200#32)).mode = .transmitting ∧ (at_ .receiving 0 (.poll 200#32)).rxLen = 0 ∧
    (¬SilenceExceeded 110#32 (holding frameA (.poll 110#32))) ∧ ¬SilenceExceeded 107#32 (holding frameA (.poll 107#32)) := by
  unfold SilenceExceeded; decide

/-- Six bytes; seven bytes to another address; eight bytes with a wrong suffix. -/
theorem witness_gates :
    (FrameEndsAt (holding [1, 3, 0, 0, 0, 1] (.poll 111#32)) 111#32 [] [1, 3, 0, 0, 0, 1] ∧
      ([1, 3, 0, 0, 0, 1] : List Byte).length ≤ 6) ∧
    (FrameEndsAt (holding [2, 3, 0, 0, 0, 0, 0] (.poll 111#32)) 111#32 [] [2, 3, 0, 0, 0, 0, 0] ∧
      6 < ([2, 3, 0, 0, 0, 0, 0] : List Byte).length ∧ ([2, 3, 0, 0, 0, 0, 0] : List Byte).head? ≠ some s0.cfgSlaveAddr) ∧
    (FrameEndsAt (holding [1, 3, 0, 0, 0, 1, 0x84, 0x0B] (.poll 111#32)) 111#32 [] [1, 3, 0, 0, 0, 1, 0x84, 0x0B] ∧
      ([1, 3, 0, 0, 0, 1, 0x84, 0x0B] : List Byte).head? = some s0.cfgSlaveAddr ∧
      crcOk .lowFirst [1, 3, 0, 0, 0, 1, 0x84, 0x0B] = false) :=
  ⟨⟨holding_ends _ (by decide), by decide⟩, ⟨holding_ends _ (by decide), by decide, by decide⟩,
    holding_ends _ (by decide), by decide, by decide +kernel⟩

theorem witness_accepted_frame :
    FrameEndsAt (holding frameA (.poll 111#32)) 111#32 []
      (0x01#8 :: [0x03#8, 0x00#8, 0x00#8, 0x00#8, 0x01#8] ++
        crcWire .lowFirst (crc16 (0x01#8 :: [0x03#8, 0x00#8, 0x00#8, 0x00#8, 0x01#8]))) ∧
    6 < ([0x03#8, 0x00#8, 0x00#8, 0x00#8, 0x01#8] : List Byte).length + 3 ∧
    decode 0xFF#8 [0x03#8, 0x00#8, 0x00#8, 0x00#8, 0x01#8] = .ok (.readHoldingRegisters (.full 0 1 [])) := by
  have h : (0x01#8 :: [0x03#8, 0x00#8, 0x00#8, 0x00#8, 0x01#8] ++
      crcWire .lowFirst (crc16 (0x01#8 :: [0x03#8, 0x00#8, 0x00#8, 0x00#8, 0x01#8])) : List Byte) = frameA := by
    decide +kernel
  rw [h]
  exact ⟨holding_ends _ (by decide), by decide, by decide⟩

/-- An accepted frame and a dropped one, each with the invariant. -/
theorem witness_one_response :
    (BlockInv (holding frameA (.poll 111#32)) ∧ FrameEndsAt (holding frameA (.poll 111#32)) 111#32 [] frameA ∧
      6 < frameA.length ∧ frameA.head? = some 0x01#8 ∧ crcOk .lowFirst frameA = true) ∧
    (BlockInv (holding [1] (.poll 111#32)) ∧ FrameEndsAt (holding [1] (.poll 111#32)) 111#32 [] [1] ∧
      ¬6 < ([1] : List Byte).length) :=
  ⟨⟨holding_inv _ _ (by decide), holding_ends _ (by decide), by decide, by decide, by decide +kernel⟩,
    holding_inv _ _ (by decide), holding_ends _ (by decide), by decide⟩

theorem witness_completion : ∀ m ∈ [Mode.receiving, Mode.transmitting],
    (at_ m 8 (.txDone 1#32 .error)).inputs = [.txDone 1#32 .error] ∧ (at_ m 8 (.txDone 1#32 .error)).mode = m ∧
    (at_ m 8 .rxErr).inputs = [.rxErr] ∧ (at_ m 8 .rxErr).mode = m := by decide

/-- The bytes of frameA, one time unit apart, and a poll. -/
def sentA : List (Byte × Time) := frameA.zip (List.range 8 |>.map fun i => BitVec.ofNat 32 (100 + i))

theorem witness_sent_request :
    BlockInv { s0 with inputs := byteEvents sentA ++ [.poll 111#32] } ∧ s0.mode = .receiving ∧ s0.rxLen = 0 ∧
    Instr.wellFormed s0.cfgFuncEn (.readHoldingRegisters (.full 0 1 [])) = true ∧
    sentA.map Prod.fst = s0.cfgSlaveAddr :: encode (.readHoldingRegisters (.full 0 1 [])) ++
      crcWire s0.params.crcWireOrder (crc16 (s0.cfgSlaveAddr :: encode (.readHoldingRegisters (.full 0 1 [])))) ∧
    s0.params.minFrameLen < sentA.length ∧ sentA.length ≤ s0.params.bufSize ∧
    (∀ last, sentA.getLast? = some last → s0.cfgTSilence.toNat < ((111#32 : Time).toNat + (2 ^ 32 - last.2.toNat)) % 2 ^ 32) :=
  ⟨{ holding_inv [] .rxErr (by decide) with }, rfl, rfl, by decide, by decide +kernel, by decide, by decide,
    fun last h => by
      have h' : sentA.getLast? = some (0x0A#8, 107#32) := by decide
      rw [h'] at h
      cases h
      decide⟩

theorem witness_txbuf : 255 ≤ s0.params.txbufSize ∧
    255 ≤ ({ s0 with params := { s0.params with txbufSize := 255 } } : State).params.txbufSize ∧
    5 ≤ ({ s0 with params := { s0.params with txbufSize := 5 } } : State).params.txbufSize := by decide

theorem witness_illegal_function : enabled s0.cfgFuncEn 0x00#8 = false ∧ enabled s0.cfgFuncEn 0x07#8 = false ∧
    enabled s0.cfgFuncEn 0xFF#8 = false ∧ enabled ({ s0 with cfgFuncEn := 0xEF#8 } : State).cfgFuncEn 0x05#8 = false := by
  decide

/-- Each clause of the read rules at its boundary: bad counts, the largest counts, a range that ends at 0xFFFF and one
that passes it, a request that the data model accepts and one that it refuses. -/
theorem witness_read_clauses :
    ((0#16 : Word).toNat < 1 ∧ 2000 < (2001#16 : Word).toNat ∧ 125 < (126#16 : Word).toNat) ∧
    (¬(1#16 : Word).toNat < 1 ∧ ¬2000 < (2000#16 : Word).toNat ∧ ¬125 < (125#16 : Word).toNat) ∧
    (0x10000 < (0xFFFF#16 : Word).toNat + (2#16 : Word).toNat ∧ ¬0x10000 < (0xFFFF#16 : Word).toNat + (1#16 : Word).toNat) ∧
    ((edm.readBits .coils 0 16).1.st = 0#2 ∧ (edm.readBits .coils 0 17).1.st ≠ 0#2) ∧
    ((edm.readBits .discreteInputs 0 16).1.st = 0#2 ∧ (edm.readBits .discreteInputs 0 17).1.st ≠ 0#2) ∧
    ((edm.readRegs .holdingRegisters 15 1).1.st = 0#2 ∧ (edm.readRegs .holdingRegisters 15 2).1.st ≠ 0#2) ∧
    ((edm.readRegs .inputRegisters 15 1).1.st = 0#2 ∧ (edm.readRegs .inputRegisters 15 2).1.st ≠ 0#2) := by decide +kernel

/-- Each clause of the single-write rules: a bad value, both good values, and both answers of the data model. -/
theorem witness_write_single_clauses :
    ((0x0001#16 : Word) ≠ 0x0000#16 ∧ (0x0001#16 : Word) ≠ 0xFF00#16) ∧
    (edm.writeCoil 15 true).1 = 0#2 ∧ (edm.writeCoil 16 true).1 ≠ 0#2 ∧
    (edm.writeReg 5 100).1 = 0#2 ∧ (edm.writeReg 5 101).1 ≠ 0#2 ∧ (edm.writeReg 0 0).1 ≠ 0#2 := by decide +kernel

/-- Each clause of the multiple-write rules at its boundary: counts, byte counts, data lengths, ranges, both results. -/
theorem witness_write_multiple_clauses :
    ((0#16 : Word).toNat < 1 ∧ 1968 < (1969#16 : Word).toNat ∧ 123 < (124#16 : Word).toNat) ∧
    ((246#8 : Byte).toNat = ((1968#16 : Word).toNat + 7) / 8 ∧ (246#8 : Byte).toNat = 2 * (123#16 : Word).toNat) ∧
    ((2#8 : Byte).toNat ≠ ((17#16 : Word).toNat + 7) / 8 ∧ (3#8 : Byte).toNat ≠ 2 * (1#16 : Word).toNat) ∧
    (6 + ([0xFF#8] : List Byte).length < 6 + (2#8 : Byte).toNat) ∧
    (0x10000 < (0xFFFF#16 : Word).toNat + (2#16 : Word).toNat ∧ ¬0x10000 < (0xFFFE#16 : Word).toNat + (2#16 : Word).toNat) ∧
    ((writeLoop DMState.writeCoil .wrCoil 14 0 [true, true] edm).1 = 0#2 ∧
      (writeLoop DMState.writeCoil .wrCoil 14 0 [true, true, true] edm).1 ≠ 0#2) ∧
    ((writeLoop DMState.writeReg .wrReg 4 0 [1, 100] edm).1 = 0#2 ∧
      (writeLoop DMState.writeReg .wrReg 4 0 [1, 101, 2] edm).1 ≠ 0#2) := by decide +kernel

theorem witness_points : ([true, false] : List Bool)[1]? = some false ∧ ([true] : List Bool).length ≤ 7 ∧
    (packBits [true])[7 / 8]? = some 1#8 ∧ ([0x1234#16] : List Word)[0]? = some 0x1234#16 := by decide

theorem witness_trailing_bytes : ([] : List Byte).length = (0#8 : Byte).toNat ∧
    (List.replicate 255 (0#8 : Byte)).length = (255#8 : Byte).toNat := ⟨rfl, List.length_replicate⟩

/-- The largest counts and a range that ends at 0xFFFF, in the reset data model. -/
theorem witness_stored_reads :
    255 ≤ State.reset.params.txbufSize ∧ State.reset.dm.script = [] ∧ (63536#16 : Word).toNat + (2000#16 : Word).toNat = 0x10000 ∧
    (State.reset.dm.bitSpace .coils).contains 63536 2000 = true ∧
    (State.reset.dm.bitSpace .discreteInputs).contains 63536 2000 = true ∧
    (State.reset.dm.regSpace .holdingRegisters).contains 65411 125 = true ∧
    (State.reset.dm.regSpace .inputRegisters).contains 65411 125 = true := by decide

theorem witness_stored_single_writes : s0.dm.script = [] ∧ s0.dm.wf = true ∧ s0.dm.coils.writeStatus 15 1 = 0#2 ∧
    s0.dm.coils.writeStatus 0 0 = 0#2 ∧ s0.dm.holdingRegisters.writeStatus 5 100 = 0#2 := by decide

theorem whole_accepts {α : Type} (a v : Nat) (h : a < 0x10000) : (DMSpace.whole α).writeStatus a v = 0#2 := by
  have h1 : (DMSpace.whole α).contains a 1 = true := by simp [DMSpace.contains, DMSpace.whole]; omega
  simp [DMSpace.writeStatus, h1, stOk]
  simp [DMSpace.whole]

/-- The largest counts of FC15 and FC16 meet the bounds, up to the last address. -/
theorem witness_stored_multiple_bounds :
    (246#8 : Byte).toNat ≤ 246 ∧ State.reset.dm.wf = true ∧ State.reset.dm.script = [] ∧
    (63568#16 : Word).toNat + (1968#16 : Word).toNat ≤ 0x10000 ∧
    (65413#16 : Word).toNat + (123#16 : Word).toNat ≤ 0x10000 := by decide

/-- There every one of their points is accepted, whatever the data bytes. -/
theorem witness_stored_multiple_writes (data : List Byte) :
    (∀ i, i < 1968 → State.reset.dm.coils.writeStatus (63568 + i) ((data.getD (i / 8) 0#8).getLsbD (i % 8)).toNat = 0#2) ∧
    (∀ i, i < 123 → State.reset.dm.holdingRegisters.writeStatus (65413 + i)
      (data.getD (2 * i) 0#8 ++ data.getD (2 * i + 1) 0#8).toNat = 0#2) := by
  have h1 : State.reset.dm.coils = DMSpace.whole Bool := rfl
  have h2 : State.reset.dm.holdingRegisters = DMSpace.whole Word := rfl
  rw [h1, h2]
  exact ⟨fun i hi => whole_accepts _ _ (by omega), fun i hi => whole_accepts _ _ (by omega)⟩

/-- Each clause of the contract at its boundary in EDM. -/
theorem witness_contract : edm.script = [] ∧
    ((edm.bitSpace .coils).base + (edm.bitSpace .coils).size < (0#16 : Word).toNat + 17) ∧
    ((edm.regSpace .holdingRegisters).base + (edm.regSpace .holdingRegisters).size < (15#16 : Word).toNat + 2) ∧
    (edm.coils.base + edm.coils.size ≤ (16#16 : Word).toNat) ∧
    ((0#16 : Word).toNat ∈ edm.holdingRegisters.readOnly) ∧
    ((5#16 : Word).toNat ∉ edm.holdingRegisters.readOnly ∧ ((5#16 : Word).toNat, 100) ∈ edm.holdingRegisters.limits ∧
      100 < (101#16 : Word).toNat) ∧
    ((1#16 : Word).toNat < ({ edm with coils := { edm.coils with base := 2 } } : DMState).coils.base) := by decide

theorem witness_repeated_write : 255 ≤ s0.params.txbufSize ∧ s0.dm.script = [] ∧ s0.dm.wf = true ∧
    (Instr.writeSingleRegister (.full 1 5 []) = .writeSingleRegister (.full 1 5 []) ∨
      Instr.writeSingleRegister (.full 1 5 []) = .writeSingleCoil (.full 1 5 [])) := by decide

end Sys2Proof.Tests
end

section
/-! PROOFS. What an event does, as one relation with a constructor for each rule of the framer and the CRC unit: later
proofs split an event along these constructors and do not unfold `handle`. -/

namespace Sys2Proof.Machine

/-- What the event `e` does to the block in `s`, rule by rule (R40). -/
inductive Effect : Event → State → State → Prop
  /-- A byte in TRANSMITTING is lost (R183). -/
  | byteLost {s : State} {b : Byte} {now : Time} (hmode : s.mode = .transmitting) : Effect (.byte b now) s s
  /-- A byte in a full buffer goes to index 0 (R182). -/
  | byteWrapped {s : State} {b : Byte} {now : Time} (hmode : s.mode = .receiving) (hfull : s.rxLen = s.params.bufSize)
      (hcap : 0 < s.params.bufSize) : Effect (.byte b now) s
      { s with rxBuf := s.rxBuf.write 0 b, rxLen := 1, lastRxTime := now, ovfCnt := s.ovfCnt + 1#16 }
  /-- A byte is appended (R181). -/
  | byteAppended {s : State} {b : Byte} {now : Time} (hmode : s.mode = .receiving) (hroom : s.rxLen < s.params.bufSize) :
      Effect (.byte b now) s
      { s with rxBuf := s.rxBuf.write s.rxLen b, rxLen := s.rxLen + 1, lastRxTime := now }
  /-- A receive error discards a partial frame (R198). -/
  | errorDiscards {s : State} (hmode : s.mode = .receiving) : Effect .rxErr s { s with rxLen := 0, de := false }
  /-- A receive error in TRANSMITTING does nothing (R199). -/
  | errorIgnored {s : State} (hmode : s.mode = .transmitting) : Effect .rxErr s s
  /-- A poll that ends no frame does nothing (R185). -/
  | pollIdle {s : State} {now : Time} (hends : frameEnds now s = false) : Effect (.poll now) s s
  /-- The length gate or the address gate drops the frame (R186, R187). -/
  | frameDropped {s : State} {now : Time} {f : List Byte} (hends : frameEnds now s = true) (hframe : rxFrame s = .ok f)
      (hgate : lengthGate s f = false ∨ addressGate s f = false) : Effect (.poll now) s (dropFrame s)
  /-- The CRC gate drops the frame and counts it (R188). -/
  | crcDropped {s : State} {now : Time} {f : List Byte} (hends : frameEnds now s = true) (hframe : rxFrame s = .ok f)
      (hlen : lengthGate s f = true) (haddr : addressGate s f = true) (hcrc : crcGate s f = false) :
      Effect (.poll now) s (dropFrame (countCrcErr s))
  /-- An accepted frame's request is answered (R190). -/
  | responded {s : State} {now : Time} {f : List Byte} {i : Instr} (hends : frameEnds now s = true)
      (hframe : rxFrame s = .ok f) (hlen : lengthGate s f = true) (haddr : addressGate s f = true)
      (hcrc : crcGate s f = true) (hdecode : decode s.cfgFuncEn (pduOf f) = .ok i)
      (hfits : (instrFrame i s).length ≤ s.params.txbufSize) : Effect (.poll now) s (afterInstr i s)
  /-- A completion ends the transmission (R196). -/
  | txEnded {s : State} {now : Time} {st : TxStatus} (hmode : s.mode = .transmitting) :
      Effect (.txDone now st) s (endTx now (completeTx s))
  /-- A completion in RECEIVING touches only the transmitter (R197). -/
  | txIgnored {s : State} {now : Time} {st : TxStatus} (hmode : s.mode = .receiving) :
      Effect (.txDone now st) s (completeTx s)
  /-- The init strobe of the CRC unit (R100). -/
  | crcInit {s : State} : Effect .crcInit s (eventCrcInit s)
  /-- The data strobe of the CRC unit (R101). -/
  | crcByte {s : State} {b : Byte} : Effect (.crcByte b) s (eventCrcByte b s)
  /-- The reset (R240). -/
  | reset {s : State} : Effect .reset s (eventReset s)

theorem Effect.of_handle {e : Event} {s t : State} (h : handle e s = .next t) : Effect e s t := by
  cases e with
  | byte b now =>
    obtain ⟨hm, rfl⟩ | ⟨hm, hfull, hcap, rfl⟩ | ⟨hm, hroom, rfl⟩ := eventByte_cases h
    · exact .byteLost hm
    · exact .byteWrapped hm hfull hcap
    · exact .byteAppended hm hroom
  | rxErr =>
    cases h
    unfold eventRxErr
    split
    case h_1 hm => exact .errorDiscards hm
    case h_2 hm => exact .errorIgnored hm
  | poll now =>
    obtain ⟨hidle, rfl⟩ | ⟨hends, f, hf, hgates⟩ := eventPoll_cases h
    · exact .pollIdle hidle
    obtain ⟨hl, rfl⟩ | ⟨_, ha, rfl⟩ | ⟨hl, ha, hc, rfl⟩ | ⟨hl, ha, hc, i, hi, hx⟩ := hgates
    · exact .frameDropped hends hf (.inl hl)
    · exact .frameDropped hends hf (.inr ha)
    · exact .crcDropped hends hf hl ha hc
    · obtain ⟨hfits, rfl⟩ := exec_eq_next_iff.mp hx
      exact .responded hends hf hl ha hc hi hfits
  | txDone now st =>
    cases h
    unfold eventTxDone
    split
    case h_1 hm => exact .txEnded hm
    case h_2 hm => exact .txIgnored hm
  | crcInit => cases h; exact .crcInit
  | crcByte b => cases h; exact .crcByte
  | reset => cases h; exact .reset

/-- A poll that ends the frame `f` runs the gates on it. -/
theorem eventPoll_eq_gates {now : Time} {s : State} {f : List Byte} (hends : frameEnds now s = true)
    (hframe : rxFrame s = .ok f) : eventPoll now s = gates f s := by
  simp only [eventPoll, if_pos hends, frameEnd, hframe]

theorem Effect.handle_eq {e : Event} {s t : State} (h : Effect e s t) : handle e s = .next t := by
  cases h with
  | byteLost hm => simp only [handle, eventByte, hm]
  | byteWrapped hm hfull hcap =>
    simp only [handle, eventByte, hm, if_pos hfull, appendByte, wrapRx_rxLen, wrapRx_params, if_pos hcap]
    simp only [wrapRx, hm]
  | byteAppended hm hroom =>
    simp only [handle, eventByte, hm, if_neg (Nat.ne_of_lt hroom), appendByte, if_pos hroom]
  | errorDiscards hm => simp only [handle, eventRxErr, hm]
  | errorIgnored hm => simp only [handle, eventRxErr, hm]
  | pollIdle hends => simp [handle, eventPoll, hends]
  | frameDropped hends hframe hgate =>
    refine (eventPoll_eq_gates hends hframe).trans ?_
    obtain hl | ha := hgate
    · simp only [gates, if_pos hl]
    · simp only [gates, if_pos ha, ite_self]
  | crcDropped hends hframe hl ha hc =>
    refine (eventPoll_eq_gates hends hframe).trans ?_
    simp [gates, hl, ha, hc]
  | responded hends hframe hl ha hc hdecode hfits =>
    refine (eventPoll_eq_gates hends hframe).trans ?_
    simp [gates, hl, ha, hc, runPdu, hdecode, exec_eq_next_iff.mpr ⟨hfits, rfl⟩]
  | txEnded hm => simp only [handle, eventTxDone, hm]
  | txIgnored hm => simp only [handle, eventTxDone, hm]
  | crcInit => rfl
  | crcByte => rfl
  | reset => rfl

theorem handle_eq_next_iff {e : Event} {s t : State} : handle e s = .next t ↔ Effect e s t :=
  ⟨Effect.of_handle, Effect.handle_eq⟩

/-- A step leaves an idle state as it is, or it delivers, runs and records the oldest event. -/
theorem step_eq_next_iff {s t : State} : step s = .next t ↔
    (s.inputs = [] ∧ t = s) ∨
    ∃ e rest u, s.inputs = e :: rest ∧ Effect e (deliver rest s) u ∧ t = closeEvent e u := by
  constructor
  · intro h
    obtain hidle | ⟨e, rest, u, hin, hu, ht⟩ := step_cases h
    · exact .inl hidle
    · exact .inr ⟨e, rest, u, hin, .of_handle hu, ht⟩
  · rintro (⟨hin, rfl⟩ | ⟨e, rest, u, hin, hu, rfl⟩)
    · exact step_idle hin
    · exact step_of_handle hin hu.handle_eq

/-! ### What every event leaves unchanged -/

theorem Effect.params_eq {e : Event} {s t : State} (h : Effect e s t) : t.params = s.params := by cases h <;> rfl

theorem Effect.inputs_eq {e : Event} {s t : State} (h : Effect e s t) : t.inputs = s.inputs := by cases h <;> rfl

theorem Effect.trace_eq {e : Event} {s t : State} (h : Effect e s t) : t.trace = s.trace := by cases h <;> rfl

theorem SameBlock.refl (s : State) : SameBlock s s := by constructor <;> rfl

/-- A poll ends a frame only in RECEIVING (R184). -/
theorem mode_of_frameEnds {now : Time} {s : State} (h : frameEnds now s = true) : s.mode = .receiving := by
  simp only [frameEnds, Bool.and_eq_true, beq_iff_eq] at h
  exact h.1.1

end Sys2Proof.Machine
end

section
/-! PROOFS. The invariant (R24, R25, R28, R29, R33, R50): from a state that has it no event stops, and every event keeps it. -/

namespace Sys2Proof.Machine

/-! ### Every event has its effect -/

/-- A frame above the length gate has a PDU byte when `P_MIN_FRAME_LEN` is legal (R9), and so an instruction. -/
theorem decode_pduOf_of_lengthGate {s : State} {f : List Byte} (hmin : 3 ≤ s.params.minFrameLen)
    (hlen : lengthGate s f = true) : ∃ i, decode s.cfgFuncEn (pduOf f) = .ok i := by
  refine decode_ok_of_ne_nil _ fun hnil => ?_
  have h0 : f.length - 3 = 0 := by rw [← pduOf_length, hnil, List.length_nil]
  rw [lengthGate, decide_eq_true_eq] at hlen
  omega

/-- With a transmit buffer of 255 bytes every response fits (R12, R77). -/
theorem instrFrame_fits (i : Instr) {s : State} (h : 255 ≤ s.params.txbufSize) :
    (instrFrame i s).length ≤ s.params.txbufSize := by
  have := responsePdu_length_le i.fc (dispatchWith_short DMState.model i s.dm)
  rw [instrFrame, responseFrame_length]
  omega

theorem BlockInv.exists_byte_effect {s : State} (hinv : BlockInv s) (b : Byte) (now : Time) :
    ∃ t, Effect (.byte b now) s t := by
  obtain ⟨_, hcap, _⟩ := hinv.legal
  cases hm : s.mode with
  | transmitting => exact ⟨_, .byteLost hm⟩
  | receiving =>
    obtain hroom | hfull := Nat.lt_or_eq_of_le hinv.rxLen_le
    · exact ⟨_, .byteAppended hm hroom⟩
    · exact ⟨_, .byteWrapped hm hfull (by omega)⟩

theorem BlockInv.exists_poll_effect {s : State} (hinv : BlockInv s) (now : Time) : ∃ t, Effect (.poll now) s t := by
  obtain ⟨hmin, _, _, _, htx⟩ := hinv.legal
  cases hends : frameEnds now s with
  | false => exact ⟨_, .pollIdle hends⟩
  | true =>
  obtain ⟨f, hf⟩ : ∃ f, rxFrame s = .ok f := Memory.slice_of_heldBelow hinv.rxBuf_held
  cases hl : lengthGate s f with
  | false => exact ⟨_, .frameDropped hends hf (.inl hl)⟩
  | true =>
  cases ha : addressGate s f with
  | false => exact ⟨_, .frameDropped hends hf (.inr ha)⟩
  | true =>
  cases hc : crcGate s f with
  | false => exact ⟨_, .crcDropped hends hf hl ha hc⟩
  | true =>
  obtain ⟨i, hi⟩ := decode_pduOf_of_lengthGate hmin hl
  exact ⟨_, .responded hends hf hl ha hc hi (instrFrame_fits i htx)⟩

/-- No event stops the block: no byte that a rule reads is absent, every index is inside its buffer and every accepted frame
has a request. -/
theorem BlockInv.exists_effect {s : State} (hinv : BlockInv s) (e : Event) : ∃ t, Effect e s t := by
  cases e with
  | byte b now => exact hinv.exists_byte_effect b now
  | rxErr =>
    cases hm : s.mode with
    | receiving => exact ⟨_, .errorDiscards hm⟩
    | transmitting => exact ⟨_, .errorIgnored hm⟩
  | poll now => exact hinv.exists_poll_effect now
  | txDone now st =>
    cases hm : s.mode with
    | receiving => exact ⟨_, .txIgnored hm⟩
    | transmitting => exact ⟨_, .txEnded hm⟩
  | crcInit => exact ⟨_, .crcInit⟩
  | crcByte b => exact ⟨_, .crcByte⟩
  | reset => exact ⟨_, .reset⟩

/-! ### Every effect keeps the invariant -/

/-- `DE = 1` exactly in TRANSMITTING is kept by every event, with no other premise (R28). -/
theorem Effect.keeps_de_iff {e : Event} {s t : State} (h : Effect e s t)
    (hde : s.de = true ↔ s.mode = .transmitting) : t.de = true ↔ t.mode = .transmitting := by
  cases h with
  | errorDiscards hm => simp [hm]
  | responded => exact iff_of_true rfl rfl
  | txEnded => simp
  | reset => simp
  | _ => exact hde

/-- A byte stored at an index whose predecessors are held, with the cursor after it (R181, R182). -/
theorem blockInv_store_byte {s : State} (hinv : BlockInv s) {n : Nat} (hn : n < s.params.bufSize)
    (hheld : s.rxBuf.heldBelow n) (b : Byte) (now : Time) (c : Cnt) :
    BlockInv { s with rxBuf := s.rxBuf.write n b, rxLen := n + 1, lastRxTime := now, ovfCnt := c } :=
  { hinv with
    rxLen_le := hn
    rxBuf_wf := Memory.wf_write hinv.rxBuf_wf n b
    rxBuf_held := Memory.heldBelow_write hheld b
    rxBuf_within := Memory.within_write hinv.rxBuf_within hn b }

theorem blockInv_resetWith {P : Params} {d : DMState} (hP : P.legal) (hd : d.wf = true) :
    BlockInv (State.resetWith P d) where
  legal := hP
  rxLen_le := Nat.zero_le _
  rxBuf_wf := rfl
  rxBuf_held := Memory.heldBelow_zero _
  rxBuf_within := Memory.within_nil _
  txLen_le := Nat.zero_le _
  txBuf_wf := rfl
  txBuf_held := Memory.heldBelow_zero _
  txBuf_within := Memory.within_nil _
  de_iff := by simp [State.resetWith]
  cfgSlaveAddr_eq := rfl
  cfgTSilence_eq := rfl
  cfgFuncEn_eq := rfl
  dm_wf := hd

theorem blockInv_dropFrame {s : State} (hinv : BlockInv s) : BlockInv (dropFrame s) :=
  { hinv with rxLen_le := Nat.zero_le _, rxBuf_held := Memory.heldBelow_zero _ }

theorem blockInv_afterInstr {s : State} (hinv : BlockInv s) {i : Instr}
    (hfits : (instrFrame i s).length ≤ s.params.txbufSize) : BlockInv (afterInstr i s) :=
  { hinv with
    txLen_le := hfits
    txBuf_wf := Memory.wf_writeAll _ hinv.txBuf_wf 0
    txBuf_held := Memory.heldBelow_writeAll s.txBuf (instrFrame i s)
    txBuf_within := Memory.within_writeAll hinv.txBuf_within _ (by omega)
    de_iff := iff_of_true rfl rfl
    dm_wf := dispatchWith_keeps (P := fun d => d.wf = true) DMState.model
      (fun sp a n _ h => DMState.wf_readBits h sp a n) (fun sp a n _ h => DMState.wf_readRegs h sp a n)
      (fun a v _ h => DMState.wf_writeCoil h a v) (fun a v _ h => DMState.wf_writeReg h a v) i hinv.dm_wf }

theorem blockInv_eventReset {s : State} (hinv : BlockInv s) : BlockInv (eventReset s) :=
  { blockInv_resetWith hinv.legal hinv.dm_wf with }

theorem Effect.keeps_blockInv {e : Event} {s t : State} (h : Effect e s t) (hinv : BlockInv s) : BlockInv t := by
  have hde := h.keeps_de_iff hinv.de_iff
  cases h with
  | byteLost => exact hinv
  | byteWrapped _ _ hcap => exact blockInv_store_byte hinv hcap (Memory.heldBelow_zero _) _ _ _
  | byteAppended _ hroom => exact blockInv_store_byte hinv hroom hinv.rxBuf_held _ _ _
  | errorDiscards => exact { blockInv_dropFrame hinv with de_iff := hde }
  | errorIgnored => exact hinv
  | pollIdle => exact hinv
  | frameDropped => exact blockInv_dropFrame hinv
  | crcDropped => exact { blockInv_dropFrame hinv with }
  | responded _ _ _ _ _ _ hfits => exact blockInv_afterInstr hinv hfits
  | txEnded => exact { blockInv_dropFrame hinv with de_iff := hde }
  | txIgnored => exact { hinv with }
  | crcInit => exact { hinv with }
  | crcByte => exact { hinv with }
  | reset => exact blockInv_eventReset hinv

/-! ### The step -/

/-- Settles O16: every event has an effect under the invariant, and every effect keeps it. -/
theorem stepNeverStopsAndKeepsTheInvariant : Obligations.StepNeverStopsAndKeepsTheInvariant := by
  intro s hinv
  cases hin : s.inputs with
  | nil => exact ⟨s, step_idle hin, hinv⟩
  | cons e rest =>
    have hdelivered : BlockInv (deliver rest s) := { hinv with }
    obtain ⟨u, hu⟩ := hdelivered.exists_effect e
    exact ⟨_, step_of_handle hin hu.handle_eq, { hu.keeps_blockInv hdelivered with }⟩

/-- Settles O17, by the cases of the event. -/
theorem driverEnableFollowsMode : Obligations.DriverEnableFollowsMode := by
  intro s t hde h
  obtain ⟨_, rfl⟩ | ⟨e, rest, u, _, hu, rfl⟩ := step_eq_next_iff.mp h
  · exact hde
  · exact hu.keeps_de_iff hde

/-- Settles O15: the reset state of legal parameters has the invariant, and this hardware's parameters are legal. -/
theorem resetStateHasTheInvariant : Obligations.ResetStateHasTheInvariant :=
  ⟨fun _ _ => blockInv_resetWith, blockInv_resetWith (by decide) (by decide)⟩

end Sys2Proof.Machine
end

section
/-! PROOFS. Fields that no rule reads: the buffers' bytes at and above the lengths (R24, R29, R36), and CRC_REG for the
framer (R30). Each event has the same effect with any other value there. -/

namespace Sys2Proof.Machine

/-! ### Stale bytes -/

/-- The two memories read the same below `n`. -/
def Memory.AgreeBelow (n : Nat) (m' m : Memory) : Prop := ∀ a, a < n → m'.read? a = m.read? a

theorem Memory.agreeBelow_zero (m' m : Memory) : Memory.AgreeBelow 0 m' m := fun _ h => absurd h (Nat.not_lt_zero _)

/-- The same byte written at the end of the agreement extends it. -/
theorem Memory.AgreeBelow.write {n : Nat} {m' m : Memory} (h : AgreeBelow n m' m) (b : Byte) :
    AgreeBelow (n + 1) (m'.write n b) (m.write n b) := fun a ha => by
  rw [Memory.read?_write, Memory.read?_write]
  split
  · rfl
  · exact h a (by omega)

/-- Whatever the memories held, they agree on the bytes just written. -/
theorem Memory.agreeBelow_writeAll (m' m : Memory) (bs : List Byte) :
    AgreeBelow bs.length (m'.writeAll 0 bs) (m.writeAll 0 bs) := fun a ha => by
  rw [Memory.read?_writeAll, Memory.read?_writeAll, if_pos (by omega), if_pos (by omega)]

theorem Memory.AgreeBelow.slice_eq {n : Nat} {m' m : Memory} (h : AgreeBelow n m' m) : m'.slice 0 n = m.slice 0 n :=
  Memory.slice_congr n 0 fun a _ ha => h a (by omega)

/-- `s` with other contents of the two buffers. -/
def withBuffers (rx tx : Memory) (s : State) : State := { s with rxBuf := rx, txBuf := tx }

/-- With other bytes at and above the lengths an event has the same effect, and what it leaves differs again only there. -/
theorem Effect.with_stale_bytes {e : Event} {s t : State} {rx tx : Memory} (h : Effect e s t)
    (hrx : Memory.AgreeBelow s.rxLen rx s.rxBuf) (htx : Memory.AgreeBelow s.txLen tx s.txBuf) :
    ∃ rx' tx', Effect e (withBuffers rx tx s) (withBuffers rx' tx' t) ∧
      Memory.AgreeBelow t.rxLen rx' t.rxBuf ∧ Memory.AgreeBelow t.txLen tx' t.txBuf := by
  have frame : rxFrame (withBuffers rx tx s) = rxFrame s := hrx.slice_eq
  cases h with
  | byteLost hm => exact ⟨rx, tx, .byteLost hm, hrx, htx⟩
  | byteWrapped hm hfull hcap =>
    exact ⟨_, tx, .byteWrapped hm hfull hcap, (Memory.agreeBelow_zero rx s.rxBuf).write _, htx⟩
  | byteAppended hm hroom => exact ⟨_, tx, .byteAppended hm hroom, hrx.write _, htx⟩
  | errorDiscards hm => exact ⟨rx, tx, .errorDiscards hm, Memory.agreeBelow_zero _ _, htx⟩
  | errorIgnored hm => exact ⟨rx, tx, .errorIgnored hm, hrx, htx⟩
  | pollIdle hends => exact ⟨rx, tx, .pollIdle hends, hrx, htx⟩
  | frameDropped hends hf hgate =>
    exact ⟨rx, tx, .frameDropped hends (frame.trans hf) hgate, Memory.agreeBelow_zero _ _, htx⟩
  | crcDropped hends hf hl ha hc =>
    exact ⟨rx, tx, .crcDropped hends (frame.trans hf) hl ha hc, Memory.agreeBelow_zero _ _, htx⟩
  | responded hends hf hl ha hc hi hfits =>
    exact ⟨rx, _, .responded hends (frame.trans hf) hl ha hc hi hfits, hrx, Memory.agreeBelow_writeAll tx s.txBuf _⟩
  | txEnded hm => exact ⟨rx, tx, .txEnded hm, Memory.agreeBelow_zero _ _, htx⟩
  | txIgnored hm => exact ⟨rx, tx, .txIgnored hm, hrx, htx⟩
  | crcInit => exact ⟨rx, tx, .crcInit, hrx, htx⟩
  | crcByte => exact ⟨rx, tx, .crcByte, hrx, htx⟩
  | reset => exact ⟨[], [], .reset, Memory.agreeBelow_zero _ _, Memory.agreeBelow_zero _ _⟩

/-- Settles O20: the same event has the same effect, and the levels recorded after it show no buffer byte. -/
theorem staleBufferBytesNeverMatter : Obligations.StaleBufferBytesNeverMatter := by
  intro s t rx tx hrx htx h
  obtain ⟨hin, rfl⟩ | ⟨e, rest, u, hin, hu, rfl⟩ := step_eq_next_iff.mp h
  · exact ⟨_, step_idle hin, rfl, hrx, htx⟩
  · obtain ⟨rx', tx', hu', hrx', htx'⟩ := hu.with_stale_bytes hrx htx
    exact ⟨closeEvent e (withBuffers rx' tx' u), step_of_handle hin hu'.handle_eq, rfl, hrx', htx'⟩

/-! ### CRC_REG -/

/-- `s` with another value in `CRC_REG`. -/
def withCrcReg (r : Word) (s : State) : State := { s with crcReg := r }

/-- With another value in `CRC_REG` an event has the same effect on every other field. -/
theorem Effect.with_crcReg {e : Event} {s t : State} (h : Effect e s t) (r : Word) :
    ∃ r', Effect e (withCrcReg r s) (withCrcReg r' t) := by
  cases h with
  | byteLost hm => exact ⟨r, .byteLost hm⟩
  | byteWrapped hm hfull hcap => exact ⟨r, .byteWrapped hm hfull hcap⟩
  | byteAppended hm hroom => exact ⟨r, .byteAppended hm hroom⟩
  | errorDiscards hm => exact ⟨r, .errorDiscards hm⟩
  | errorIgnored hm => exact ⟨r, .errorIgnored hm⟩
  | pollIdle hends => exact ⟨r, .pollIdle hends⟩
  | frameDropped hends hf hgate => exact ⟨r, .frameDropped hends hf hgate⟩
  | crcDropped hends hf hl ha hc => exact ⟨r, .crcDropped hends hf hl ha hc⟩
  | responded hends hf hl ha hc hi hfits => exact ⟨r, .responded hends hf hl ha hc hi hfits⟩
  | txEnded hm => exact ⟨r, .txEnded hm⟩
  | txIgnored hm => exact ⟨r, .txIgnored hm⟩
  | crcInit => exact ⟨_, .crcInit⟩
  | crcByte => exact ⟨_, .crcByte⟩
  | reset => exact ⟨_, .reset⟩

/-- Only the two strobes of the CRC unit and the reset write `CRC_REG`. -/
theorem Effect.event_of_crcReg_ne {e : Event} {s t : State} (h : Effect e s t) (hne : t.crcReg ≠ s.crcReg) :
    e = .crcInit ∨ (∃ b, e = .crcByte b) ∨ e = .reset := by
  cases h with
  | crcInit => exact .inl rfl
  | crcByte => exact .inr (.inl ⟨_, rfl⟩)
  | reset => exact .inr (.inr rfl)
  | _ => exact absurd rfl hne

/-- Settles O12: no effect but the strobes' and the reset's writes `CRC_REG`, and no effect reads it but for `CRC_REG`
itself and the levels recorded. -/
theorem framerAndCrcUnitAreApart : Obligations.FramerAndCrcUnitAreApart := by
  constructor
  · intro s t h hne
    obtain ⟨_, rfl⟩ | ⟨e, rest, u, hin, hu, rfl⟩ := step_eq_next_iff.mp h
    · exact absurd rfl hne
    · obtain rfl | ⟨b, rfl⟩ | rfl := hu.event_of_crcReg_ne hne
      · exact ⟨rest, .inl hin⟩
      · exact ⟨rest, .inr (.inl ⟨b, hin⟩)⟩
      · exact ⟨rest, .inr (.inr hin)⟩
  · intro s t r h
    obtain ⟨hin, rfl⟩ | ⟨e, rest, u, hin, hu, rfl⟩ := step_eq_next_iff.mp h
    · exact ⟨withCrcReg r t, step_idle hin, SameBlock.refl _, rfl, rfl, rfl⟩
    · obtain ⟨r', hu'⟩ := hu.with_crcReg r
      refine ⟨closeEvent e (withCrcReg r' u), step_of_handle hin hu'.handle_eq,
        { SameBlock.refl (withCrcReg r' u) with }, rfl, rfl, ?_⟩
      simp [withCrcReg]

end Sys2Proof.Machine
end

section
/-! PROOFS. What changes MODE, the hand-offs in flight and the configuration registers (R23, R33, R41, R195, R240). -/

namespace Sys2Proof.Machine

/-- What an event does to `MODE` and the transmitter's hand-offs: a response starts one, a completion ends one, a reset
drops `MODE` alone, and every other event leaves both. -/
theorem Effect.mode_cases {e : Event} {s t : State} (h : Effect e s t) :
    (s.mode = .receiving ∧ t.mode = .transmitting ∧ (∃ now, e = .poll now) ∧ ∃ q, t.txInFlight = s.txInFlight ++ [q]) ∨
    (t.mode = .receiving ∧ (∃ now st, e = .txDone now st) ∧ t.txInFlight = s.txInFlight.drop 1) ∨
    (t.mode = .receiving ∧ e = .reset ∧ t.txInFlight = s.txInFlight) ∨
    (t.mode = s.mode ∧ t.txInFlight = s.txInFlight) := by
  cases h with
  | responded hends => exact .inl ⟨mode_of_frameEnds hends, rfl, ⟨_, rfl⟩, _, rfl⟩
  | txEnded => exact .inr (.inl ⟨rfl, ⟨_, _, rfl⟩, rfl⟩)
  | txIgnored hm => exact .inr (.inl ⟨hm, ⟨_, _, rfl⟩, rfl⟩)
  | reset => exact .inr (.inr (.inl ⟨rfl, rfl, rfl⟩))
  | _ => exact .inr (.inr (.inr ⟨rfl, rfl⟩))

theorem Mode.eq_transmitting_of_ne {m m' : Mode} (h : m' ≠ m) (hm : m' = .receiving) : m = .transmitting := by
  cases m with
  | receiving => exact absurd hm h
  | transmitting => rfl

/-- Settles O18, by what an event does to `MODE`. -/
theorem modeChangesOnlyAtHandOffAndCompletion : Obligations.ModeChangesOnlyAtHandOffAndCompletion := by
  intro s t h hne
  obtain ⟨_, rfl⟩ | ⟨e, rest, u, hin, hu, rfl⟩ := step_eq_next_iff.mp h
  · exact absurd rfl hne
  obtain ⟨hs, ht, ⟨now, rfl⟩, q, hq⟩ | ⟨ht, ⟨now, st, rfl⟩, _⟩ | ⟨ht, rfl, _⟩ | ⟨heq, _⟩ := hu.mode_cases
  · exact .inl ⟨hs, ht, now, rest, q, hin, hq⟩
  · exact .inr ⟨Mode.eq_transmitting_of_ne hne ht, ht, rest, .inl ⟨now, st, hin⟩⟩
  · exact .inr ⟨Mode.eq_transmitting_of_ne hne ht, ht, rest, .inr hin⟩
  · exact absurd heq hne

/-- An event keeps one hand-off in flight in TRANSMITTING and none in RECEIVING, when a reset comes in RECEIVING (R243). -/
theorem Effect.keeps_oneInFlight {e : Event} {s t : State} (h : Effect e s t) (hone : OneInFlight s)
    (hreset : e = .reset → s.mode = .receiving) : OneInFlight t := by
  have none_of_receiving : s.mode = .receiving → s.txInFlight = [] := fun hs => by
    obtain ⟨_, hnone⟩ | ⟨htx, _⟩ := hone
    · exact hnone
    · simp [hs] at htx
  obtain ⟨hs, ht, _, q, hq⟩ | ⟨ht, _, hdrop⟩ | ⟨ht, rfl, hsame⟩ | ⟨hmode, hsame⟩ := h.mode_cases
  · exact .inr ⟨ht, q, by rw [hq, none_of_receiving hs, List.nil_append]⟩
  · obtain ⟨_, hnone⟩ | ⟨_, q, hq⟩ := hone
    · exact .inl ⟨ht, by rw [hdrop, hnone, List.drop_nil]⟩
    · exact .inl ⟨ht, by rw [hdrop, hq]; rfl⟩
  · exact .inl ⟨ht, hsame.trans (none_of_receiving (hreset rfl))⟩
  · rwa [OneInFlight, hmode, hsame]

/-- Settles O22, by what an event does to the hand-offs. -/
theorem atMostOneHandOffInFlight : Obligations.AtMostOneHandOffInFlight := by
  intro s t hone hreset h
  obtain ⟨_, rfl⟩ | ⟨e, rest, u, hin, hu, rfl⟩ := step_eq_next_iff.mp h
  · exact hone
  · exact hu.keeps_oneInFlight (s := deliver rest s) hone fun he => hreset ⟨rest, he ▸ hin⟩

/-- Only a reset writes the configuration registers (R33). -/
theorem Effect.config_eq {e : Event} {s t : State} (h : Effect e s t) (he : e ≠ .reset) :
    t.cfgSlaveAddr = s.cfgSlaveAddr ∧ t.cfgTSilence = s.cfgTSilence ∧ t.cfgFuncEn = s.cfgFuncEn := by
  cases h with
  | reset => exact absurd rfl he
  | _ => exact ⟨rfl, rfl, rfl⟩

/-- Settles O19: a reset loads the registers, and no other event writes them. -/
theorem configurationIsReadOnly : Obligations.ConfigurationIsReadOnly := by
  intro s t h
  obtain ⟨hin, rfl⟩ | ⟨e, rest, u, hin, hu, rfl⟩ := step_eq_next_iff.mp h
  · refine ⟨rfl, fun ⟨rest, hreset⟩ => ?_, fun _ => ⟨rfl, rfl, rfl⟩⟩
    simp [hin] at hreset
  · refine ⟨hu.params_eq, fun ⟨rest', hreset⟩ => ?_, fun hno => hu.config_eq fun he => hno ⟨rest, he ▸ hin⟩⟩
    obtain ⟨rfl, rfl⟩ := List.cons.inj (hin.symm.trans hreset)
    cases hu
    exact ⟨rfl, rfl, rfl⟩

end Sys2Proof.Machine
end

section
/-! PROOFS. The status port, the trace and the reset event (R34, R41, R43). -/

namespace Sys2Proof.Machine

/-! ### The status port -/

theorem statusReg_toNat (s : State) : (statusReg s).toNat =
    (if s.mode = .transmitting then 1 else 0) + (if s.de = true then 2 else 0) + (if s.mode = .receiving then 4 else 0) := by
  cases hm : s.mode <;> cases hd : s.de <;> simp [statusReg, rxEn, modeBit, statusBit, hm, hd]

theorem regRead_of_ge (s : State) {idx : Nat} (h : 10 ≤ idx) : regRead s idx = 0#32 := by
  obtain ⟨k, rfl⟩ := Nat.exists_eq_add_of_le' h
  rfl

theorem regRead_one_toNat {s : State} (h : s.rxLen ≤ 65535) : (regRead s 1).toNat = s.rxLen := by
  have hzext : (regRead s 1).toNat = (BitVec.ofNat 16 s.rxLen).toNat := BitVec.toNat_setWidth_of_le (by decide)
  rw [hzext, BitVec.toNat_ofNat, Nat.mod_eq_of_lt (by omega)]

/-- Settles O13, index by index; the reset column is the table read in the reset state. -/
theorem statusPortReadsItsTable : Obligations.StatusPortReadsItsTable := by
  constructor
  · intro s hrx
    exact ⟨statusReg_toNat s, regRead_one_toNat hrx, BitVec.toNat_setWidth_of_le (by decide),
      BitVec.toNat_setWidth_of_le (by decide), rfl, rfl, BitVec.toNat_setWidth_of_le (by decide), rfl,
      BitVec.toNat_setWidth_of_le (by decide), BitVec.toNat_setWidth_of_le (by decide), fun _ => regRead_of_ge s⟩
  · intro P d
    exact ⟨BitVec.eq_of_toNat_eq (statusReg_toNat (State.resetWith P d)), rfl, rfl, rfl, rfl, rfl,
      BitVec.toNat_setWidth_of_le (by decide), rfl, BitVec.toNat_setWidth_of_le (by decide), rfl⟩

/-! ### The trace -/

theorem rxEn_eq_decide (s : State) : rxEn s = decide (s.mode = .receiving) := by
  unfold rxEn
  cases s.mode <;> rfl

/-- Settles O21: no effect touches the schedule or the trace, and the event's end adds one entry. -/
theorem traceShowsTheLevelsAfterEveryEvent : Obligations.TraceShowsTheLevelsAfterEveryEvent := by
  intro s t e rest hin h
  obtain ⟨hnil, _⟩ | ⟨e', rest', u, hin', hu, rfl⟩ := step_eq_next_iff.mp h
  · simp [hin] at hnil
  · obtain ⟨rfl, rfl⟩ := List.cons.inj (hin.symm.trans hin')
    refine ⟨hu.inputs_eq, rfl, u.out, ?_⟩
    rw [closeEvent_trace, hu.trace_eq, deliver_trace, closeEvent_mode, ← rxEn_eq_decide]
    rfl

/-! ### The reset event -/

/-- Settles O14: a step on a reset is delivered, runs `eventReset` and is recorded. -/
theorem resetEventLeavesTheResetValues : Obligations.ResetEventLeavesTheResetValues := by
  intro s rest hin
  exact ⟨_, step_of_handle hin Effect.reset.handle_eq,
    rfl, rfl, rfl, rfl, rfl, rfl, rfl, rfl, rfl, rfl, rfl, rfl, rfl, rfl, rfl, rfl⟩

end Sys2Proof.Machine
end

section
/-! PROOFS. A burst of bytes in RECEIVING that fits the buffer (R25, R26, R181). -/

namespace Sys2Proof.Machine

theorem run_succ_of_step {M : Host.Core} {s u : M.State} (h : M.step s = .next u) (k : Nat) :
    M.run (k + 1) s = M.run k u := by
  rw [Host.Core.run, h]

/-- `s` after the bytes `cs` were appended, with their times (R181). -/
def received (cs : List (Byte × Time)) (s : State) : State :=
  { s with
    rxBuf := s.rxBuf.writeAll s.rxLen (cs.map Prod.fst)
    rxLen := s.rxLen + cs.length
    lastRxTime := (cs.map Prod.snd).getLastD s.lastRxTime }

theorem received_cons (c : Byte × Time) (cs : List (Byte × Time)) (s : State) :
    received (c :: cs) s = received cs (received [c] s) := by
  have hlen : s.rxLen + (c :: cs).length = s.rxLen + 1 + cs.length := by rw [List.length_cons]; omega
  simp only [received, hlen, List.map_cons, List.map_nil, List.getLastD_cons, List.getLastD_nil]
  rfl

/-- A whole step on a byte that has room. -/
theorem step_byte_of_room {s : State} {c : Byte × Time} {rest : List Event} (hin : s.inputs = .byte c.1 c.2 :: rest)
    (hmode : s.mode = .receiving) (hroom : s.rxLen < s.params.bufSize) :
    step s = .next (closeEvent (.byte c.1 c.2) (received [c] (deliver rest s))) :=
  step_of_handle hin (Effect.byteAppended (s := deliver rest s) hmode hroom).handle_eq

/-- A burst that fits is appended whole, and no other field of the block changes. -/
theorem run_burst (cs : List (Byte × Time)) : ∀ {s : State} {rest : List Event},
    s.inputs = byteEvents cs ++ rest → s.mode = .receiving → s.rxLen + cs.length ≤ s.params.bufSize →
    ∃ t, core.run cs.length s = .next t ∧ t.inputs = rest ∧ SameBlock (received cs s) t := by
  induction cs with
  | nil =>
    intro s rest hin _ _
    exact ⟨s, rfl, hin, SameBlock.refl _⟩
  | cons c cs ih =>
    intro s rest hin hmode hroom
    rw [List.length_cons] at hroom
    have hstep := step_byte_of_room (c := c) (rest := byteEvents cs ++ rest) hin hmode (by omega)
    have hroom' : s.rxLen + 1 + cs.length ≤ s.params.bufSize := by omega
    obtain ⟨t, hrun, hrest, hsame⟩ := ih (rest := rest)
      (s := closeEvent (.byte c.1 c.2) (received [c] (deliver (byteEvents cs ++ rest) s))) rfl hmode hroom'
    refine ⟨t, (run_succ_of_step (M := core) hstep cs.length).trans hrun, hrest, ?_⟩
    rw [received_cons]
    exact { hsame with }

/-- Settles O25: a burst into an empty buffer is written from index 0 on, and the slice of what was written is it. -/
theorem burstIsHeldInOrder : Obligations.BurstIsHeldInOrder := by
  intro s bs last rest hin hmode hempty hfits
  have hlen : (bs ++ [last]).length = bs.length + 1 := List.length_append
  obtain ⟨t, hrun, hrest, hsame⟩ := run_burst (bs ++ [last]) hin hmode (by omega)
  rw [hlen] at hrun
  have hrx : t.rxBuf = s.rxBuf.writeAll 0 ((bs ++ [last]).map Prod.fst) := hempty ▸ hsame.rxBuf
  have hslice := Memory.slice_writeAll s.rxBuf 0 ((bs ++ [last]).map Prod.fst)
  rw [List.length_map, hlen, ← hrx] at hslice
  refine ⟨t, hrun, hrest, ?_, ?_, hslice, { hsame with rxBuf := rfl, rxLen := rfl, lastRxTime := rfl }⟩
  · exact hsame.rxLen.trans (by simp [received, hempty])
  · exact hsame.lastRxTime.trans (by simp [received])

end Sys2Proof.Machine
end

section
/-! PROOFS. The function codes' procedures over any data model: the checks they make before any request, and what follows
the checks (R122 to R126). -/

namespace Sys2Proof.Machine

/-- An instruction whose dispatch succeeds answers with the success PDU (R190). -/
theorem exec_responded_of_ok {i : Instr} {s : State} {resp : List Byte} {rs : List DMRequest} {d : DMState}
    (htx : 255 ≤ s.params.txbufSize) (h : dispatchWith DMState.model i s.dm = ⟨.ok resp, rs, d⟩) :
    ∃ t, exec i s = .next t ∧ Responded s resp rs d t := by
  have hrespond := respond_responded (fc := i.fc) (dispatchWith_short DMState.model i s.dm) htx
  rw [← exec_eq_respond, h] at hrespond
  exact hrespond

theorem checked_result {σ : Type} (st : Status) (resp : List Byte) (rs : List DMRequest) (d : σ) :
    (checked st resp rs d).result = if st = stOk then .ok resp else .exc (st.setWidth 8) := by
  unfold checked
  split <;> rfl

theorem readBitsProc_of_legal {σ : Type} (dm : DataModel σ) (sp : BitSpace) (fc : Byte) {start count : Word}
    (rest : List Byte) (d : σ) (hcount : countOk count maxReadBits = true) (hrange : rangeOk start count = true) :
    readBitsProc dm sp fc (.full start count rest) d =
      checked (dm.readBits sp start count.toNat d).1.st
        (fc :: BitVec.ofNat 8 (ceil8 count.toNat) :: packBits (dm.readBits sp start count.toNat d).1.vals)
        [.rdBits sp start count.toNat] (dm.readBits sp start count.toNat d).2 :=
  (if_neg (ne_false_of_eq_true hcount)).trans (if_neg (ne_false_of_eq_true hrange))

theorem readRegsProc_of_legal {σ : Type} (dm : DataModel σ) (sp : RegSpace) (fc : Byte) {start count : Word}
    (rest : List Byte) (d : σ) (hcount : countOk count maxReadRegs = true) (hrange : rangeOk start count = true) :
    readRegsProc dm sp fc (.full start count rest) d =
      checked (dm.readRegs sp start count.toNat d).1.st
        (fc :: BitVec.ofNat 8 (2 * count.toNat) :: packWords (dm.readRegs sp start count.toNat d).1.vals)
        [.rdRegs sp start count.toNat] (dm.readRegs sp start count.toNat d).2 :=
  (if_neg (ne_false_of_eq_true hcount)).trans (if_neg (ne_false_of_eq_true hrange))

theorem writeCoilProc_of_legal {σ : Type} (dm : DataModel σ) (fc : Byte) (addr : Word) {value : Word}
    (rest : List Byte) (d : σ) (hvalue : value = coilOff ∨ value = coilOn) :
    writeCoilProc dm fc (.full addr value rest) d =
      checked (dm.writeCoil addr (value == coilOn) d).1 (echo fc addr value) [.wrCoil addr (value == coilOn)]
        (dm.writeCoil addr (value == coilOn) d).2 :=
  if_neg fun ⟨hoff, hon⟩ => hvalue.elim hoff hon

theorem writeMultiProc_of_legal {σ α : Type} (write : Word → α → σ → Status × σ) (request : Word → α → DMRequest)
    {maxCount : Nat} {byteCount : Nat → Nat} (values : List Byte → Nat → List α) (fc : Byte) {start count : Word}
    {bc : Byte} {data : List Byte} (d : σ) (hcount : countOk count maxCount = true)
    (hbc : bc.toNat = byteCount count.toNat) (hdata : bc.toNat ≤ data.length) (hrange : rangeOk start count = true) :
    writeMultiProc write request maxCount byteCount values fc (.full start count bc data) d =
      checked (writeLoop write request start 0 (values data count.toNat) d).1 (echo fc start count)
        (writeLoop write request start 0 (values data count.toNat) d).2.1
        (writeLoop write request start 0 (values data count.toNat) d).2.2 :=
  (if_neg (ne_false_of_eq_true hcount)).trans <| (if_neg (not_not_intro hbc)).trans <|
    (if_neg (Nat.not_lt.mpr hdata)).trans (if_neg (ne_false_of_eq_true hrange))

/-! ### Raised before any request, or legal: the data model has no part in it -/

theorem readBitsProc_raises_or_legal (sp : BitSpace) (fc : Byte) (a : ReadArgs) :
    (∃ c, ∀ (σ : Type) (dm : DataModel σ) (d : σ), readBitsProc dm sp fc a d = raised c d) ∨
    ∃ start count rest, a = .full start count rest ∧ countOk count maxReadBits = true ∧ rangeOk start count = true := by
  cases a with
  | short payload => exact .inl ⟨_, fun _ _ _ => rfl⟩
  | full start count rest =>
    cases hcount : countOk count maxReadBits with
    | false => exact .inl ⟨_, fun _ _ _ => if_pos hcount⟩
    | true =>
      cases hrange : rangeOk start count with
      | false => exact .inl ⟨_, fun _ _ _ => (if_neg (ne_false_of_eq_true hcount)).trans (if_pos hrange)⟩
      | true => exact .inr ⟨start, count, rest, rfl, hcount, hrange⟩

theorem readRegsProc_raises_or_legal (sp : RegSpace) (fc : Byte) (a : ReadArgs) :
    (∃ c, ∀ (σ : Type) (dm : DataModel σ) (d : σ), readRegsProc dm sp fc a d = raised c d) ∨
    ∃ start count rest, a = .full start count rest ∧ countOk count maxReadRegs = true ∧ rangeOk start count = true := by
  cases a with
  | short payload => exact .inl ⟨_, fun _ _ _ => rfl⟩
  | full start count rest =>
    cases hcount : countOk count maxReadRegs with
    | false => exact .inl ⟨_, fun _ _ _ => if_pos hcount⟩
    | true =>
      cases hrange : rangeOk start count with
      | false => exact .inl ⟨_, fun _ _ _ => (if_neg (ne_false_of_eq_true hcount)).trans (if_pos hrange)⟩
      | true => exact .inr ⟨start, count, rest, rfl, hcount, hrange⟩

theorem writeMultiProc_raises_or_legal {α : Type} (request : Word → α → DMRequest) (maxCount : Nat)
    (byteCount : Nat → Nat) (values : List Byte → Nat → List α) (fc : Byte) (a : MultiArgs) :
    (∃ c, ∀ (σ : Type) (write : Word → α → σ → Status × σ) (d : σ),
      writeMultiProc write request maxCount byteCount values fc a d = raised c d) ∨
    ∃ start count bc data, a = .full start count bc data ∧ countOk count maxCount = true ∧
      bc.toNat = byteCount count.toNat ∧ bc.toNat ≤ data.length ∧ rangeOk start count = true := by
  cases a with
  | short payload => exact .inl ⟨_, fun _ _ _ => rfl⟩
  | full start count bc data =>
    cases hcount : countOk count maxCount with
    | false => exact .inl ⟨_, fun _ _ _ => if_pos hcount⟩
    | true =>
    by_cases hbc : bc.toNat = byteCount count.toNat
    case neg => exact .inl ⟨_, fun _ _ _ => (if_neg (ne_false_of_eq_true hcount)).trans (if_pos hbc)⟩
    by_cases hdata : bc.toNat ≤ data.length
    case neg =>
      exact .inl ⟨_, fun _ _ _ => (if_neg (ne_false_of_eq_true hcount)).trans <|
        (if_neg (not_not_intro hbc)).trans (if_pos (Nat.lt_of_not_le hdata))⟩
    cases hrange : rangeOk start count with
    | false =>
      exact .inl ⟨_, fun _ _ _ => (if_neg (ne_false_of_eq_true hcount)).trans <|
        (if_neg (not_not_intro hbc)).trans <| (if_neg (Nat.not_lt.mpr hdata)).trans (if_pos hrange)⟩
    | true => exact .inr ⟨start, count, bc, data, rfl, hcount, hbc, hdata, hrange⟩

end Sys2Proof.Machine
end

section
/-! PROOFS. Answers fixed in advance stand for any data model (R55, log 2): the list holds, for each request of the dispatch,
what the data model answers it. -/

namespace Sys2Proof.Machine

theorem fitTo_of_length {α : Type} (z : α) : ∀ {n : Nat} {l : List α}, l.length = n → fitTo z n l = l
  | 0, [], _ => rfl
  | n + 1, x :: xs, h => by rw [fitTo, fitTo_of_length z (Nat.succ.inj h)]

/-- Some list of answers makes `run` give the result of `r` by the requests of `r`, and is used up. -/
def Covered {σ : Type} (base : DMState) (run : DMState → Dispatched DMState) (r : Dispatched σ) : Prop :=
  ∃ script : List DMAnswer,
    (run { base with script := script }).result = r.result ∧
    (run { base with script := script }).requests = r.requests ∧
    (run { base with script := script }).dm = { base with script := [] }

section Covering

variable {σ : Type} (base : DMState)

theorem covered_raised {run : DMState → Dispatched DMState} {c : Byte} (h : ∀ d, run d = raised c d) (d : σ) :
    Covered base run (raised c d) :=
  ⟨[], by simp only [h, raised_result], by simp only [h, raised_requests], by simp only [h, raised_dm]⟩

theorem covered_checked {run : DMState → Dispatched DMState} {script : List DMAnswer} {st : Status} {resp : List Byte}
    {rs : List DMRequest} (h : run { base with script := script } = checked st resp rs { base with script := [] })
    (d : σ) : Covered base run (checked st resp rs d) :=
  ⟨script, by simp only [h, checked_result], by simp only [h, checked_requests], by simp only [h, checked_dm]⟩

theorem readBitsProc_covered (dm : DataModel σ) (sp : BitSpace) (fc : Byte) (a : ReadArgs) (d : σ) :
    Covered base (readBitsProc DMState.model sp fc a) (readBitsProc dm sp fc a d) := by
  obtain ⟨c, hraise⟩ | ⟨start, count, rest, rfl, hcount, hrange⟩ := readBitsProc_raises_or_legal sp fc a
  · rw [hraise]
    exact covered_raised base (hraise _ _) d
  · rw [readBitsProc_of_legal dm sp fc rest d hcount hrange]
    generalize dm.readBits sp start count.toNat d = r
    refine covered_checked base (script := [⟨r.1.st, r.1.vals, []⟩]) ?_ r.2
    rw [readBitsProc_of_legal _ sp fc rest _ hcount hrange]
    simp only [DMState.model, DMState.readBits, fitTo_of_length false r.1.count]

theorem readRegsProc_covered (dm : DataModel σ) (sp : RegSpace) (fc : Byte) (a : ReadArgs) (d : σ) :
    Covered base (readRegsProc DMState.model sp fc a) (readRegsProc dm sp fc a d) := by
  obtain ⟨c, hraise⟩ | ⟨start, count, rest, rfl, hcount, hrange⟩ := readRegsProc_raises_or_legal sp fc a
  · rw [hraise]
    exact covered_raised base (hraise _ _) d
  · rw [readRegsProc_of_legal dm sp fc rest d hcount hrange]
    generalize dm.readRegs sp start count.toNat d = r
    refine covered_checked base (script := [⟨r.1.st, [], r.1.vals⟩]) ?_ r.2
    rw [readRegsProc_of_legal _ sp fc rest _ hcount hrange]
    simp only [DMState.model, DMState.readRegs, fitTo_of_length 0#16 r.1.count]

theorem writeCoilProc_covered (dm : DataModel σ) (fc : Byte) (a : WriteArgs) (d : σ) :
    Covered base (writeCoilProc DMState.model fc a) (writeCoilProc dm fc a d) := by
  cases a with
  | short payload => exact covered_raised base (fun _ => rfl) d
  | full addr value rest =>
    by_cases hvalue : value = coilOff ∨ value = coilOn
    · rw [writeCoilProc_of_legal dm fc addr rest d hvalue]
      refine covered_checked base (script := [⟨(dm.writeCoil addr (value == coilOn) d).1, [], []⟩]) ?_ _
      exact writeCoilProc_of_legal DMState.model fc addr rest _ hvalue
    · have hbad : value ≠ coilOff ∧ value ≠ coilOn := not_or.mp hvalue
      rw [show writeCoilProc dm fc (.full addr value rest) d = raised illegalValueCode d from if_pos hbad]
      exact covered_raised base (fun _ => if_pos hbad) d

theorem writeRegProc_covered (dm : DataModel σ) (fc : Byte) (a : WriteArgs) (d : σ) :
    Covered base (writeRegProc DMState.model fc a) (writeRegProc dm fc a d) := by
  cases a with
  | short payload => exact covered_raised base (fun _ => rfl) d
  | full addr value rest => exact covered_checked base (script := [⟨(dm.writeReg addr value d).1, [], []⟩]) rfl _

/-- A write that takes the next fixed answer, whatever its address and value. -/
def AnswersFromScript {α : Type} (base : DMState) (write : Word → α → DMState → Status × DMState) : Prop :=
  ∀ a v (st : Status) (script : List DMAnswer),
    write a v { base with script := ⟨st, [], []⟩ :: script } = (st, { base with script := script })

/-- One answer per write of the loop, up to the first that fails (R165). -/
theorem writeLoop_covered {α : Type} {write' : Word → α → DMState → Status × DMState}
    (hscript : AnswersFromScript base write') (write : Word → α → σ → Status × σ) (request : Word → α → DMRequest)
    (start : Word) : ∀ (i : Nat) (vs : List α) (d : σ), ∃ script : List DMAnswer,
      writeLoop write' request start i vs { base with script := script } =
        ((writeLoop write request start i vs d).1, (writeLoop write request start i vs d).2.1,
          { base with script := [] })
  | _, [], _ => ⟨[], rfl⟩
  | i, v :: vs, d => by
    by_cases hok : (write (pointAddr start i) v d).1 = stOk
    · obtain ⟨script, hrest⟩ := writeLoop_covered hscript write request start (i + 1) vs (write (pointAddr start i) v d).2
      refine ⟨⟨stOk, [], []⟩ :: script, ?_⟩
      simp only [writeLoop, hscript _ _ _ _, hok, if_true, hrest]
    · refine ⟨[⟨(write (pointAddr start i) v d).1, [], []⟩], ?_⟩
      simp only [writeLoop, hscript _ _ _ _, hok, if_false]

theorem writeMultiProc_covered {α : Type} {write' : Word → α → DMState → Status × DMState}
    (hscript : AnswersFromScript base write') (write : Word → α → σ → Status × σ) (request : Word → α → DMRequest)
    (maxCount : Nat) (byteCount : Nat → Nat) (values : List Byte → Nat → List α) (fc : Byte) (a : MultiArgs) (d : σ) :
    Covered base (writeMultiProc write' request maxCount byteCount values fc a)
      (writeMultiProc write request maxCount byteCount values fc a d) := by
  obtain ⟨c, hraise⟩ | ⟨start, count, bc, data, rfl, hcount, hbc, hdata, hrange⟩ :=
    writeMultiProc_raises_or_legal request maxCount byteCount values fc a
  · rw [hraise]
    exact covered_raised base (hraise _ _) d
  · rw [writeMultiProc_of_legal write request values fc d hcount hbc hdata hrange]
    obtain ⟨script, hloop⟩ := writeLoop_covered base hscript write request start 0 (values data count.toNat) d
    refine covered_checked base (script := script) ?_ _
    rw [writeMultiProc_of_legal write' request values fc _ hcount hbc hdata hrange, hloop]

end Covering

/-- Settles O49: each procedure is covered, a multiple write with one answer for each write of its loop. -/
theorem everyDataModelIsCovered : Obligations.EveryDataModelIsCovered := by
  intro σ dm i d base
  change Covered base (dispatchWith DMState.model i) (dispatchWith dm i d)
  cases i with
  | readCoils a => exact readBitsProc_covered base dm _ _ a d
  | readDiscreteInputs a => exact readBitsProc_covered base dm _ _ a d
  | readHoldingRegisters a => exact readRegsProc_covered base dm _ _ a d
  | readInputRegisters a => exact readRegsProc_covered base dm _ _ a d
  | writeSingleCoil a => exact writeCoilProc_covered base dm _ a d
  | writeSingleRegister a => exact writeRegProc_covered base dm _ a d
  | writeMultipleCoils a => exact writeMultiProc_covered base (fun _ _ _ _ => rfl) _ _ _ _ _ _ a d
  | writeMultipleRegisters a => exact writeMultiProc_covered base (fun _ _ _ _ => rfl) _ _ _ _ _ _ a d
  | illegalFunction fc payload => exact covered_raised base (fun _ => rfl) d

end Sys2Proof.Machine
end

section
/-! PROOFS. The stored data model (R58, log 16): what a request answers and stores when no answer is fixed in advance. -/

namespace Sys2Proof.Machine

/-! ### Requests to the stored spaces -/

theorem DMState.readBits_of_no_script {d : DMState} (hd : d.script = []) (sp : BitSpace) (start : Word) (n : Nat) :
    d.readBits sp start n = ((d.bitSpace sp).read false start n, d) := by
  simp only [DMState.readBits, hd]

theorem DMState.readRegs_of_no_script {d : DMState} (hd : d.script = []) (sp : RegSpace) (start : Word) (n : Nat) :
    d.readRegs sp start n = ((d.regSpace sp).read 0#16 start n, d) := by
  simp only [DMState.readRegs, hd]

theorem DMState.writeCoil_of_no_script {d : DMState} (hd : d.script = []) (addr : Word) (v : Bool) :
    d.writeCoil addr v = ((d.coils.write false Bool.toNat addr v).1,
      { d with coils := (d.coils.write false Bool.toNat addr v).2 }) := by
  simp only [DMState.writeCoil, hd]

theorem DMState.writeReg_of_no_script {d : DMState} (hd : d.script = []) (addr v : Word) :
    d.writeReg addr v = ((d.holdingRegisters.write 0#16 BitVec.toNat addr v).1,
      { d with holdingRegisters := (d.holdingRegisters.write 0#16 BitVec.toNat addr v).2 }) := by
  simp only [DMState.writeReg, hd]

section Space

variable {α : Type} {z : α} {sp : DMSpace α}

theorem DMSpace.contains_eq_false_iff {a n : Nat} :
    sp.contains a n = false ↔ a < sp.base ∨ sp.base + sp.size < a + n := by
  simp only [DMSpace.contains, Bool.and_eq_false_iff, decide_eq_false_iff_not, Nat.not_le]

theorem DMSpace.read_st_of_inside {start : Word} {n : Nat} (h : sp.contains start.toNat n = true) :
    (sp.read z start n).st = stOk := if_pos h

theorem DMSpace.read_st_of_outside {start : Word} {n : Nat}
    (h : start.toNat < sp.base ∨ sp.base + sp.size < start.toNat + n) : (sp.read z start n).st = stIllegalAddress :=
  if_neg (by rw [DMSpace.contains_eq_false_iff.mpr h]; exact Bool.false_ne_true)

theorem DMSpace.read_vals (start : Word) (n : Nat) :
    (sp.read z start n).vals = (List.range n).map fun i => sp.value z (start.toNat + i) :=
  DMSpace.values_eq z sp n start.toNat

/-- A write out of range or to a point that denies it. -/
theorem DMSpace.writeStatus_of_denied {a : Nat} (value : Nat)
    (h : a < sp.base ∨ sp.base + sp.size ≤ a ∨ a ∈ sp.readOnly) : sp.writeStatus a value = stIllegalAddress := by
  unfold DMSpace.writeStatus
  by_cases hin : sp.contains a 1 = false
  · rw [if_pos hin]
  · have hro : a ∈ sp.readOnly := by
      rw [DMSpace.contains_eq_false_iff] at hin
      obtain hlow | hhigh | hro := h
      · omega
      · omega
      · exact hro
    rw [if_neg hin, if_pos (List.contains_iff_mem.mpr hro)]

/-- A write in range that the point allows, of a value above a limit of the point. -/
theorem DMSpace.writeStatus_of_above_limit {a value limit : Nat} (hlow : sp.base ≤ a) (hhigh : a < sp.base + sp.size)
    (hro : a ∉ sp.readOnly) (hlimit : (a, limit) ∈ sp.limits) (habove : limit < value) :
    sp.writeStatus a value = stIllegalValue := by
  have hin : ¬sp.contains a 1 = false := by
    rw [DMSpace.contains_eq_false_iff]
    omega
  have hhook : (sp.limits.any fun l => l.1 == a && decide (l.2 < value)) = true :=
    List.any_eq_true.mpr ⟨_, hlimit, by simp [habove]⟩
  unfold DMSpace.writeStatus
  rw [if_neg hin, if_neg (mt List.contains_iff_mem.mp hro), if_pos hhook]

variable [DecidableEq α] {num : α → Nat}

theorem DMSpace.write_of_accepted {a : Word} {v : α} (h : sp.writeStatus a.toNat (num v) = stOk) :
    sp.write z num a v = (stOk, sp.store z a.toNat v) := by
  simp only [DMSpace.write, h, if_true]

theorem DMSpace.write_of_refused {a : Word} {v : α} {st : Status} (h : sp.writeStatus a.toNat (num v) = st)
    (hst : st ≠ stOk) : sp.write z num a v = (st, sp) := by
  simp only [DMSpace.write, h, if_neg hst]

end Space

theorem DMState.writeCoil_of_accepted {d : DMState} (hd : d.script = []) {addr : Word} {v : Bool}
    (h : d.coils.writeStatus addr.toNat v.toNat = stOk) :
    d.writeCoil addr v = (stOk, { d with coils := d.coils.store false addr.toNat v }) := by
  rw [DMState.writeCoil_of_no_script hd, DMSpace.write_of_accepted h]

theorem DMState.writeReg_of_accepted {d : DMState} (hd : d.script = []) {addr v : Word}
    (h : d.holdingRegisters.writeStatus addr.toNat v.toNat = stOk) :
    d.writeReg addr v = (stOk, { d with holdingRegisters := d.holdingRegisters.store 0#16 addr.toNat v }) := by
  rw [DMState.writeReg_of_no_script hd, DMSpace.write_of_accepted h]

theorem DMState.writeCoil_of_refused {d : DMState} (hd : d.script = []) {addr : Word} {v : Bool} {st : Status}
    (h : d.coils.writeStatus addr.toNat v.toNat = st) (hst : st ≠ stOk) : d.writeCoil addr v = (st, d) := by
  rw [DMState.writeCoil_of_no_script hd, DMSpace.write_of_refused h hst]

theorem DMState.writeReg_of_refused {d : DMState} (hd : d.script = []) {addr v : Word} {st : Status}
    (h : d.holdingRegisters.writeStatus addr.toNat v.toNat = st) (hst : st ≠ stOk) : d.writeReg addr v = (st, d) := by
  rw [DMState.writeReg_of_no_script hd, DMSpace.write_of_refused h hst]

/-- Settles O53: the status is that of the first check that fails, and only an accepted write stores. -/
theorem storedDataModelRefusesByContract : Obligations.StoredDataModelRefusesByContract := by
  intro d hd
  refine ⟨fun sp a n h => ?_, fun sp a n h => ?_, fun a v h => ?_, fun a v h => ?_, ?_⟩
  · rw [DMState.readBits_of_no_script hd]
    exact ⟨DMSpace.read_st_of_outside h, rfl⟩
  · rw [DMState.readRegs_of_no_script hd]
    exact ⟨DMSpace.read_st_of_outside h, rfl⟩
  · exact DMState.writeCoil_of_refused hd (DMSpace.writeStatus_of_denied _ h) (by decide)
  · exact DMState.writeReg_of_refused hd (DMSpace.writeStatus_of_denied _ h) (by decide)
  · intro a v limit hlow hhigh hro hlimit habove
    exact DMState.writeReg_of_refused hd (DMSpace.writeStatus_of_above_limit hlow hhigh hro hlimit habove) (by decide)

/-! ### Reads -/

theorem readBitsProc_stored {d : DMState} (hd : d.script = []) (sp : BitSpace) (fc : Byte) {start count : Word}
    (rest : List Byte) (hcount : countOk count maxReadBits = true) (hrange : rangeOk start count = true)
    (hin : (d.bitSpace sp).contains start.toNat count.toNat = true) :
    readBitsProc DMState.model sp fc (.full start count rest) d =
      ⟨.ok (fc :: BitVec.ofNat 8 (ceil8 count.toNat) :: packBits ((List.range count.toNat).map fun i =>
        (d.bitSpace sp).value false (start.toNat + i))), [.rdBits sp start count.toNat], d⟩ := by
  rw [readBitsProc_of_legal _ _ _ _ _ hcount hrange]
  simp only [DMState.model, DMState.readBits_of_no_script hd, DMSpace.read_st_of_inside hin, DMSpace.read_vals,
    checked_ok]

theorem readRegsProc_stored {d : DMState} (hd : d.script = []) (sp : RegSpace) (fc : Byte) {start count : Word}
    (rest : List Byte) (hcount : countOk count maxReadRegs = true) (hrange : rangeOk start count = true)
    (hin : (d.regSpace sp).contains start.toNat count.toNat = true) :
    readRegsProc DMState.model sp fc (.full start count rest) d =
      ⟨.ok (fc :: BitVec.ofNat 8 (2 * count.toNat) :: packWords ((List.range count.toNat).map fun i =>
        (d.regSpace sp).value 0#16 (start.toNat + i))), [.rdRegs sp start count.toNat], d⟩ := by
  rw [readRegsProc_of_legal _ _ _ _ _ hcount hrange]
  simp only [DMState.model, DMState.readRegs_of_no_script hd, DMSpace.read_st_of_inside hin, DMSpace.read_vals,
    checked_ok]

/-- Settles O50: a legal read of the stored space succeeds with its values. -/
theorem readsAnswerTheStoredPoints : Obligations.ReadsAnswerTheStoredPoints := by
  intro s start count rest htx hd hpos hsum
  have hrange := (rangeOk_iff start count).mpr hsum
  have hbits (h : count.toNat ≤ 2000) := (countOk_iff count maxReadBits).mpr ⟨hpos, h⟩
  have hregs (h : count.toNat ≤ 125) := (countOk_iff count maxReadRegs).mpr ⟨hpos, h⟩
  refine ⟨fun hmax hin => ?_, fun hmax hin => ?_, fun hmax hin => ?_, fun hmax hin => ?_⟩
  · exact exec_responded_of_ok htx (readBitsProc_stored hd .coils _ rest (hbits hmax) hrange hin)
  · exact exec_responded_of_ok htx (readBitsProc_stored hd .discreteInputs _ rest (hbits hmax) hrange hin)
  · exact exec_responded_of_ok htx (readRegsProc_stored hd .holdingRegisters _ rest (hregs hmax) hrange hin)
  · exact exec_responded_of_ok htx (readRegsProc_stored hd .inputRegisters _ rest (hregs hmax) hrange hin)

/-! ### Single writes -/

/-- The two spaces that a request can write are in canonical form. -/
theorem DMState.wf_spaces {d : DMState} (h : d.wf = true) :
    d.coils.wf false = true ∧ d.holdingRegisters.wf 0#16 = true := by
  simp only [DMState.wf, Bool.and_eq_true] at h
  obtain ⟨⟨⟨hcoils, -⟩, hregs⟩, -⟩ := h
  exact ⟨hcoils, hregs⟩

theorem writeCoilProc_stored {d : DMState} (hd : d.script = []) (fc : Byte) {addr value : Word} (rest : List Byte)
    (hvalue : value = coilOff ∨ value = coilOn)
    (haccept : d.coils.writeStatus addr.toNat (decide (value = coilOn)).toNat = stOk) :
    writeCoilProc DMState.model fc (.full addr value rest) d =
      ⟨.ok (echo fc addr value), [.wrCoil addr (decide (value = coilOn))],
        { d with coils := d.coils.store false addr.toNat (decide (value = coilOn)) }⟩ := by
  rw [writeCoilProc_of_legal _ _ _ _ _ hvalue, beq_eq_decide]
  simp only [DMState.model, DMState.writeCoil_of_accepted hd haccept, checked_ok]

theorem writeRegProc_stored {d : DMState} (hd : d.script = []) (fc : Byte) {addr value : Word} (rest : List Byte)
    (haccept : d.holdingRegisters.writeStatus addr.toNat value.toNat = stOk) :
    writeRegProc DMState.model fc (.full addr value rest) d =
      ⟨.ok (echo fc addr value), [.wrReg addr value],
        { d with holdingRegisters := d.holdingRegisters.store 0#16 addr.toNat value }⟩ := by
  simp only [writeRegProc, DMState.model, DMState.writeReg_of_accepted hd haccept, checked_ok]

/-- Settles O51: the one store of an accepted write. -/
theorem singleWritesStoreThePoint : Obligations.SingleWritesStoreThePoint := by
  intro s addr value rest htx hd hwf
  obtain ⟨hcoils, hregs⟩ := DMState.wf_spaces hwf
  constructor
  · intro hvalue haccept
    rw [← Bool.cond_decide] at haccept
    obtain ⟨t, hexec, hresp⟩ := exec_responded_of_ok (i := .writeSingleCoil (.full addr value rest)) htx
      (writeCoilProc_stored hd _ rest hvalue haccept)
    refine ⟨t, _, hexec, hresp, rfl, fun a => ?_⟩
    simp only [eq_comm (a := a)]
    exact DMSpace.value_store hcoils addr.toNat a _
  · intro haccept
    obtain ⟨t, hexec, hresp⟩ := exec_responded_of_ok (i := .writeSingleRegister (.full addr value rest)) htx
      (writeRegProc_stored hd _ rest haccept)
    refine ⟨t, _, hexec, hresp, rfl, fun a => ?_⟩
    simp only [eq_comm (a := a)]
    exact DMSpace.value_store hregs addr.toNat a _

/-! ### Multiple writes -/

section Points

variable {α : Type} [DecidableEq α]

/-- `sp` after `f j` was stored at `start + j` for each `j` of `js`. -/
def DMSpace.storePoints (z : α) (sp : DMSpace α) (start : Nat) (f : Nat → α) : List Nat → DMSpace α
  | [] => sp
  | j :: js => (sp.store z (start + j) (f j)).storePoints z start f js

theorem DMSpace.storePoints_eq_cells (z : α) (start : Nat) (f : Nat → α) : ∀ (js : List Nat) (sp : DMSpace α),
    sp.storePoints z start f js = { sp with cells := (sp.storePoints z start f js).cells }
  | [], _ => rfl
  | j :: js, sp => DMSpace.storePoints_eq_cells z start f js (sp.store z (start + j) (f j))

theorem DMSpace.value_storePoints {z : α} (start : Nat) (f : Nat → α) (a : Nat) : ∀ (js : List Nat) {sp : DMSpace α},
    sp.wf z = true → (sp.storePoints z start f js).value z a =
      if start ≤ a ∧ a - start ∈ js then f (a - start) else sp.value z a
  | [], _, _ => by simp [DMSpace.storePoints]
  | j :: js, sp, hwf => by
    rw [DMSpace.storePoints, DMSpace.value_storePoints start f a js (DMSpace.wf_store hwf _ _),
      DMSpace.value_store hwf]
    by_cases hj : start + j = a
    · subst hj
      simp
    · have hne : start ≤ a → a - start ≠ j := by omega
      simp only [hj, if_false, List.mem_cons]
      refine if_congr (and_congr_right fun hle => ?_) rfl rfl
      simp [hne hle]

/-- `put` places a stored space in the data model's state, and `write` stores there what the space accepts. -/
def StoresInto {σ : Type} (put : DMSpace α → σ) (z : α) (num : α → Nat) (write : Word → α → σ → Status × σ) : Prop :=
  ∀ (a : Word) (v : α) (sp : DMSpace α), sp.writeStatus a.toNat (num v) = stOk →
    write a v (put sp) = (stOk, put (sp.store z a.toNat v))

/-- Where each write of the loop is accepted, it succeeds, with a request and a store for each point in order. -/
theorem writeLoop_stored {σ : Type} {z : α} {num : α → Nat} {write : Word → α → σ → Status × σ} {put : DMSpace α → σ}
    (hwrite : StoresInto put z num write)
    (request : Word → α → DMRequest) (start : Word) (f : Nat → α) : ∀ (n i : Nat) (sp : DMSpace α),
    start.toNat + (i + n) ≤ 0x10000 →
    (∀ j, i ≤ j → j < i + n → sp.writeStatus (start.toNat + j) (num (f j)) = stOk) →
    writeLoop write request start i ((List.range' i n).map f) (put sp) =
      (stOk, (List.range' i n).map fun j => request (pointAddr start j) (f j),
        put (sp.storePoints z start.toNat f (List.range' i n)))
  | 0, _, _, _, _ => rfl
  | n + 1, i, sp, hsum, haccept => by
    have haddr : (pointAddr start i).toNat = start.toNat + i := by
      rw [pointAddr, BitVec.toNat_ofNat, Nat.mod_eq_of_lt (by omega)]
    have hfirst := hwrite (pointAddr start i) (f i) sp (haddr ▸ haccept i (Nat.le_refl i) (by omega))
    have hrest := writeLoop_stored hwrite request start f n (i + 1) (sp.store z (start.toNat + i) (f i)) (by omega)
      fun j hle hlt => haccept j (by omega) (by omega)
    rw [haddr] at hfirst
    simp only [List.range'_succ, List.map_cons, writeLoop, hfirst, if_true, hrest, DMSpace.storePoints]

/-- FC15 and FC16 on a stored space whose every point accepts its write. -/
theorem writeMultiProc_stored {σ : Type} {z : α} {num : α → Nat} {write : Word → α → σ → Status × σ}
    {put : DMSpace α → σ}
    (hwrite : StoresInto put z num write)
    (request : Word → α → DMRequest) {maxCount : Nat} {byteCount : Nat → Nat} (point : List Byte → Nat → α) (fc : Byte)
    {start count : Word} {bc : Byte} {data : List Byte} {sp : DMSpace α} (hpos : 1 ≤ count.toNat)
    (hmax : count.toNat ≤ maxCount) (hbc : bc.toNat = byteCount count.toNat) (hdata : bc.toNat ≤ data.length)
    (hsum : start.toNat + count.toNat ≤ 0x10000)
    (haccept : ∀ i, i < count.toNat → sp.writeStatus (start.toNat + i) (num (point data i)) = stOk) :
    writeMultiProc write request maxCount byteCount (fun data n => (List.range n).map (point data)) fc
        (.full start count bc data) (put sp) =
      ⟨.ok (echo fc start count),
        (List.range count.toNat).map fun i => request (pointAddr start i) (point data i),
        put (sp.storePoints z start.toNat (point data) (List.range count.toNat))⟩ := by
  rw [writeMultiProc_of_legal write request _ fc _ ((countOk_iff _ _).mpr ⟨hpos, hmax⟩) hbc hdata
    ((rangeOk_iff _ _).mpr hsum), List.range_eq_range',
    writeLoop_stored hwrite request start (point data) count.toNat 0 sp (by omega)
      fun j _ hlt => haccept j (by omega)]
  exact checked_ok _ _ _

theorem DMSpace.value_storePoints_range {z : α} {sp : DMSpace α} (hwf : sp.wf z = true) (start n : Nat) (f : Nat → α)
    (a : Nat) : (sp.storePoints z start f (List.range n)).value z a =
      if start ≤ a ∧ a < start + n then f (a - start) else sp.value z a := by
  rw [DMSpace.value_storePoints start f a _ hwf]
  refine if_congr (and_congr_right fun hle => ?_) rfl rfl
  rw [List.mem_range]
  omega

end Points

theorem DMState.writeCoil_storesInto {d : DMState} (hd : d.script = []) :
    StoresInto (fun sp => { d with coils := sp }) false Bool.toNat DMState.writeCoil :=
  fun _ _ sp h => DMState.writeCoil_of_accepted (d := { d with coils := sp }) hd h

theorem DMState.writeReg_storesInto {d : DMState} (hd : d.script = []) :
    StoresInto (fun sp => { d with holdingRegisters := sp }) 0#16 BitVec.toNat DMState.writeReg :=
  fun _ _ sp h => DMState.writeReg_of_accepted (d := { d with holdingRegisters := sp }) hd h

/-- Settles O52: the stores of a loop whose every write is accepted. -/
theorem multipleWritesStoreEveryPoint : Obligations.MultipleWritesStoreEveryPoint := by
  intro s start count bc data htx hd hwf hpos hsum hdata
  obtain ⟨hcoils, hregs⟩ := DMState.wf_spaces hwf
  constructor
  · intro hmax hbc haccept
    obtain ⟨t, hexec, hresp⟩ := exec_responded_of_ok (i := .writeMultipleCoils (.full start count bc data)) htx
      (writeMultiProc_stored (DMState.writeCoil_storesInto hd) .wrCoil coilBit 0x0F#8 hpos hmax hbc hdata hsum haccept)
    refine ⟨t, _, hexec, hresp, ?_, DMSpace.value_storePoints_range hcoils _ _ _⟩
    exact congrArg (fun sp => { s.dm with coils := sp }) (DMSpace.storePoints_eq_cells _ _ _ _ _)
  · intro hmax hbc haccept
    obtain ⟨t, hexec, hresp⟩ := exec_responded_of_ok (i := .writeMultipleRegisters (.full start count bc data)) htx
      (writeMultiProc_stored (DMState.writeReg_storesInto hd) .wrReg regWord 0x10#8 hpos hmax hbc hdata hsum haccept)
    refine ⟨t, _, hexec, hresp, ?_, DMSpace.value_storePoints_range hregs _ _ _⟩
    exact congrArg (fun sp => { s.dm with holdingRegisters := sp }) (DMSpace.storePoints_eq_cells _ _ _ _ _)

end Sys2Proof.Machine
end
section
/-! PROOFS. The decoder and the encoder undo each other, format by format and then row by row (R73 to R76, R121). -/

namespace Sys2Proof

open Sys2Proof.Machine

/-! ### The fields of the three formats -/

theorem decodeReadArgs_of_short : ∀ {payload : List Byte}, payload.length < 4 → decodeReadArgs payload = .short payload
  | [], _ | [_], _ | [_, _], _ | [_, _, _], _ => rfl
  | _ :: _ :: _ :: _ :: _, h => absurd h (by simp)

theorem decodeWriteArgs_of_short : ∀ {payload : List Byte}, payload.length < 4 → decodeWriteArgs payload = .short payload
  | [], _ | [_], _ | [_, _], _ | [_, _, _], _ => rfl
  | _ :: _ :: _ :: _ :: _, h => absurd h (by simp)

theorem decodeMultiArgs_of_short : ∀ {payload : List Byte}, payload.length < 5 → decodeMultiArgs payload = .short payload
  | [], _ | [_], _ | [_, _], _ | [_, _, _], _ | [_, _, _, _], _ => rfl
  | _ :: _ :: _ :: _ :: _ :: _, h => absurd h (by simp)

theorem decodeReadArgs_encodeReadArgs {a : ReadArgs} (h : a.wellFormed = true) :
    decodeReadArgs (encodeReadArgs a) = a := by
  cases a with
  | short payload => exact decodeReadArgs_of_short (of_decide_eq_true h)
  | full start count rest => simp [encodeReadArgs, decodeReadArgs]

theorem decodeWriteArgs_encodeWriteArgs {a : WriteArgs} (h : a.wellFormed = true) :
    decodeWriteArgs (encodeWriteArgs a) = a := by
  cases a with
  | short payload => exact decodeWriteArgs_of_short (of_decide_eq_true h)
  | full addr value rest => simp [encodeWriteArgs, decodeWriteArgs]

theorem decodeMultiArgs_encodeMultiArgs {a : MultiArgs} (h : a.wellFormed = true) :
    decodeMultiArgs (encodeMultiArgs a) = a := by
  cases a with
  | short payload => exact decodeMultiArgs_of_short (of_decide_eq_true h)
  | full start count bc data => simp [encodeMultiArgs, decodeMultiArgs]

@[simp] theorem encodeReadArgs_decodeReadArgs : ∀ payload : List Byte, encodeReadArgs (decodeReadArgs payload) = payload
  | [] | [_] | [_, _] | [_, _, _] => rfl
  | _ :: _ :: _ :: _ :: _ => by simp [decodeReadArgs, encodeReadArgs]

@[simp] theorem encodeWriteArgs_decodeWriteArgs :
    ∀ payload : List Byte, encodeWriteArgs (decodeWriteArgs payload) = payload
  | [] | [_] | [_, _] | [_, _, _] => rfl
  | _ :: _ :: _ :: _ :: _ => by simp [decodeWriteArgs, encodeWriteArgs]

@[simp] theorem encodeMultiArgs_decodeMultiArgs :
    ∀ payload : List Byte, encodeMultiArgs (decodeMultiArgs payload) = payload
  | [] | [_] | [_, _] | [_, _, _] | [_, _, _, _] => rfl
  | _ :: _ :: _ :: _ :: _ :: _ => by simp [decodeMultiArgs, encodeMultiArgs]

@[simp] theorem wellFormed_decodeReadArgs : ∀ payload : List Byte, (decodeReadArgs payload).wellFormed = true
  | [] | [_] | [_, _] | [_, _, _] => rfl
  | _ :: _ :: _ :: _ :: _ => rfl

@[simp] theorem wellFormed_decodeWriteArgs : ∀ payload : List Byte, (decodeWriteArgs payload).wellFormed = true
  | [] | [_] | [_, _] | [_, _, _] => rfl
  | _ :: _ :: _ :: _ :: _ => rfl

@[simp] theorem wellFormed_decodeMultiArgs : ∀ payload : List Byte, (decodeMultiArgs payload).wellFormed = true
  | [] | [_] | [_, _] | [_, _, _] | [_, _, _, _] => rfl
  | _ :: _ :: _ :: _ :: _ :: _ => rfl

/-! ### The row that a function code selects -/

theorem decode_of_enabled {funcEn : BitVec 8} {fc : Byte} (h : enabled funcEn fc = true) (payload : List Byte) :
    decode funcEn (fc :: payload) = .ok (decodeEnabled fc payload) := if_pos h

theorem decode_of_disabled {funcEn : BitVec 8} {fc : Byte} (h : enabled funcEn fc = false) (payload : List Byte) :
    decode funcEn (fc :: payload) = .ok (.illegalFunction fc payload) := if_neg (ne_true_of_eq_false h)

/-- Whatever the mask, an enabled code is one of the eight (R121). -/
theorem code_of_enabled {funcEn : BitVec 8} {fc : Byte} (h : enabled funcEn fc = true) :
    fc = 0x01#8 ∨ fc = 0x02#8 ∨ fc = 0x03#8 ∨ fc = 0x04#8 ∨ fc = 0x05#8 ∨ fc = 0x06#8 ∨ fc = 0x0F#8 ∨ fc = 0x10#8 := by
  simp only [enabled, Bool.or_eq_true, Bool.and_eq_true, beq_iff_eq] at h
  tauto

/-- The decode of an enabled row is the row's constructor on its format's fields. -/
theorem decode_row {α : Type} {mk : α → Instr} {fields : List Byte → α} {funcEn : BitVec 8} {fc : Byte}
    {payload : List Byte} {wf : Bool} {a : α} (h : (enabled funcEn fc && wf) = true)
    (hrow : decodeEnabled fc payload = mk (fields payload)) (hfields : wf = true → fields payload = a) :
    decode funcEn (fc :: payload) = .ok (mk a) := by
  obtain ⟨hen, hwf⟩ := Bool.and_eq_true_iff.mp h
  rw [decode_of_enabled hen, hrow, hfields hwf]

/-- What the row of an enabled code decodes to encodes to the same bytes, since each format gives its payload back. -/
theorem encode_decodeEnabled {funcEn : BitVec 8} {fc : Byte} (h : enabled funcEn fc = true) (payload : List Byte) :
    encode (decodeEnabled fc payload) = fc :: payload ∧ (decodeEnabled fc payload).wellFormed funcEn = true := by
  obtain rfl | rfl | rfl | rfl | rfl | rfl | rfl | rfl := code_of_enabled h <;>
    simp [decodeEnabled, encode, Instr.wellFormed, h]

/-- Settles O1: by row, each format's fields are read back, and a code that is not enabled keeps its bytes. -/
theorem decodeOfEncodeIsTheInstruction : Obligations.DecodeOfEncodeIsTheInstruction := by
  intro funcEn i h
  cases i with
  | readCoils a => exact decode_row (mk := .readCoils) h rfl decodeReadArgs_encodeReadArgs
  | readDiscreteInputs a => exact decode_row (mk := .readDiscreteInputs) h rfl decodeReadArgs_encodeReadArgs
  | readHoldingRegisters a => exact decode_row (mk := .readHoldingRegisters) h rfl decodeReadArgs_encodeReadArgs
  | readInputRegisters a => exact decode_row (mk := .readInputRegisters) h rfl decodeReadArgs_encodeReadArgs
  | writeSingleCoil a => exact decode_row (mk := .writeSingleCoil) h rfl decodeWriteArgs_encodeWriteArgs
  | writeSingleRegister a => exact decode_row (mk := .writeSingleRegister) h rfl decodeWriteArgs_encodeWriteArgs
  | writeMultipleCoils a => exact decode_row (mk := .writeMultipleCoils) h rfl decodeMultiArgs_encodeMultiArgs
  | writeMultipleRegisters a => exact decode_row (mk := .writeMultipleRegisters) h rfl decodeMultiArgs_encodeMultiArgs
  | illegalFunction fc payload => exact decode_of_disabled ((Bool.not_eq_true' _).mp h) payload

/-- Settles O2: by whether the code is enabled; the empty PDU has no instruction. -/
theorem encodeOfDecodeIsThePdu : Obligations.EncodeOfDecodeIsThePdu := by
  intro funcEn p i h
  cases p with
  | nil => cases h
  | cons fc payload =>
    cases hen : enabled funcEn fc with
    | true =>
      rw [decode_of_enabled hen] at h
      cases h
      exact encode_decodeEnabled hen payload
    | false =>
      rw [decode_of_disabled hen] at h
      cases h
      exact ⟨rfl, (Bool.not_eq_true' _).mpr hen⟩

/-- Settles O4, by evaluation of the decoder on the seven PDUs. -/
theorem writtenOutPdusDecode : Obligations.WrittenOutPdusDecode := by
  unfold Obligations.WrittenOutPdusDecode
  decide

end Sys2Proof
end

section
/-! PROOFS. The bytes of a request that no meaning reads (R79, R124). -/

namespace Sys2Proof.Machine

theorem coilValues_append {data : List Byte} {n : Nat} (h : ceil8 n ≤ data.length) (rest : List Byte) :
    coilValues (data ++ rest) n = coilValues data n := by
  refine List.map_congr_left fun i hi => ?_
  have hlt : i / 8 < data.length := by
    rw [List.mem_range] at hi
    unfold ceil8 at h
    omega
  rw [coilBit, coilBit, List.getD_append _ _ _ _ hlt]

theorem regValues_append {data : List Byte} {n : Nat} (h : 2 * n ≤ data.length) (rest : List Byte) :
    regValues (data ++ rest) n = regValues data n := by
  refine List.map_congr_left fun i hi => ?_
  rw [List.mem_range] at hi
  rw [regWord, regWord, List.getD_append _ _ _ _ (by omega), List.getD_append _ _ _ _ (by omega)]

/-- FC15 and FC16 read no byte beyond the `bc` data bytes, when the values of `count` points lie in `byteCount count`
bytes. -/
theorem writeMultiProc_append {σ α : Type} (write : Word → α → σ → Status × σ) (request : Word → α → DMRequest)
    (maxCount : Nat) {byteCount : Nat → Nat} {values : List Byte → Nat → List α} (fc : Byte) (start count : Word)
    {bc : Byte} {data : List Byte} (rest : List Byte) (d : σ) (hdata : data.length = bc.toNat)
    (hvalues : byteCount count.toNat ≤ data.length → values (data ++ rest) count.toNat = values data count.toNat) :
    writeMultiProc write request maxCount byteCount values fc (.full start count bc (data ++ rest)) d =
      writeMultiProc write request maxCount byteCount values fc (.full start count bc data) d := by
  have hlong : ¬(data ++ rest).length < bc.toNat := by rw [List.length_append]; omega
  have hexact : ¬data.length < bc.toNat := by omega
  by_cases hbc : bc.toNat = byteCount count.toNat
  · simp only [writeMultiProc, if_neg hlong, if_neg hexact, hvalues (by omega)]
  · simp only [writeMultiProc, if_pos hbc]

/-- Settles O48: formats A and B have no rule that reads the further bytes, and format C reads `bc` data bytes. -/
theorem trailingBytesAreIgnored : Obligations.TrailingBytesAreIgnored := by
  intro s
  refine ⟨fun _ _ _ => ⟨rfl, rfl, rfl, rfl, rfl, rfl⟩, fun start count bc data rest hdata => ⟨?_, ?_⟩⟩
  · exact congrArg (respond 0x0F#8 · s) (writeMultiProc_append _ _ _ _ _ _ rest _ hdata (coilValues_append · rest))
  · exact congrArg (respond 0x10#8 · s) (writeMultiProc_append _ _ _ _ _ _ rest _ hdata (regValues_append · rest))

end Sys2Proof.Machine
end

section
/-! PROOFS. A request that the bus sends and a poll ends is run (R184 to R190): first for a frame that stands in RX_BUF, then
for a table word placed there (log 12) and for bytes that arrive one by one. -/

namespace Sys2Proof.Machine

/-! ### The frame of a request passes the gates -/

theorem silence_toNat (now : Time) (s : State) :
    (silence now s).toNat = (now.toNat + (2 ^ 32 - s.lastRxTime.toNat)) % 2 ^ 32 := by
  rw [silence, BitVec.toNat_sub, Nat.add_comm]

/-- The condition on which a poll ends a frame (R184). -/
theorem frameEnds_iff {now : Time} {s : State} :
    frameEnds now s = true ↔ s.mode = .receiving ∧ 0 < s.rxLen ∧ SilenceExceeded now s := by
  simp only [frameEnds, Bool.and_eq_true, beq_iff_eq, decide_eq_true_eq, silence_toNat, SilenceExceeded, and_assoc]

/-- The suffix that the transmitter side appends is the one the receiver side checks (R104, R105). -/
theorem crcOk_framed (order : CrcOrder) (body : List Byte) : crcOk order (framed order body) = true := by
  simp [crcOk, framed]

@[simp] theorem requestFrame_length (p : List Byte) (s : State) : (requestFrame p s).length = p.length + 3 :=
  responseFrame_length s p

theorem gates_requestFrame {p : List Byte} {s : State} (hlen : s.params.minFrameLen < p.length + 3) :
    gates (requestFrame p s) s = runPdu p s := by
  have h1 : lengthGate s (requestFrame p s) = true := by simpa [lengthGate] using hlen
  have h2 : addressGate s (requestFrame p s) = true := by simp [addressGate, requestFrame, framed]
  have h3 : crcGate s (requestFrame p s) = true := crcOk_framed _ _
  have h4 : pduOf (requestFrame p s) = p := pduOf_framed _ _ _
  simp [gates, h1, h2, h3, h4]

/-- The poll that ends the frame of a request runs the request (R189, R190). -/
theorem eventPoll_requestFrame {s : State} {now : Time} {p : List Byte} {i : Instr} (hmode : s.mode = .receiving)
    (hsilence : SilenceExceeded now s) (hframe : s.rxBuf.slice 0 s.rxLen = .ok (requestFrame p s))
    (hlen : s.params.minFrameLen < p.length + 3) (hdecode : decode s.cfgFuncEn p = .ok i) :
    eventPoll now s = exec i s := by
  have hrx : 0 < s.rxLen := by rw [← Memory.slice_length hframe, requestFrame_length]; omega
  rw [eventPoll_eq_gates (frameEnds_iff.mpr ⟨hmode, hrx, hsilence⟩) hframe, gates_requestFrame hlen, runPdu, hdecode]

/-- The same as a whole step. -/
theorem step_requestFrame {s : State} {now : Time} {rest : List Event} {p : List Byte} {i : Instr}
    (hends : FrameEndsAt s now rest (requestFrame p s)) (hlen : s.params.minFrameLen < p.length + 3)
    (hdecode : decode s.cfgFuncEn p = .ok i) :
    step s = andThen (exec i (deliver rest s)) fun t => .next (closeEvent (.poll now) t) := by
  have hpoll : eventPoll now (deliver rest s) = exec i (deliver rest s) :=
    eventPoll_requestFrame hends.mode hends.silence hends.frame hlen hdecode
  simp only [step, hends.event, runEvent, handle, hpoll]

/-! ### A table word -/

theorem zeroPad_of_le {n : Nat} {bytes : List Byte} (h : n ≤ bytes.length) : zeroPad n bytes = bytes := by
  simp [zeroPad, Nat.sub_eq_zero_of_le h]

theorem le_zeroPad_length (n : Nat) (bytes : List Byte) : n ≤ (zeroPad n bytes).length := by
  simp only [zeroPad, List.length_append, List.length_replicate]
  omega

theorem four_le_tablePduLen (bytes : List Byte) : 4 ≤ tablePduLen bytes := by
  simp only [tablePduLen]
  split_ifs <;> omega

theorem four_le_tablePdu_length (nbits w : Nat) : 4 ≤ (tablePdu nbits w).length :=
  (four_le_tablePduLen _).trans (le_zeroPad_length _ _)

/-- A word's PDU needs no lengthening for a length gate of at most 6. -/
theorem loadPdu_eq {s : State} (nbits w : Nat) (h : s.params.minFrameLen ≤ 6) : loadPdu nbits w s = tablePdu nbits w :=
  zeroPad_of_le (by have := four_le_tablePdu_length nbits w; omega)

theorem decodeTableWord_eq_some {nbits w : Nat} {i : Instr} (h : decodeTableWord nbits w = some i) :
    decode 0xFF#8 (tablePdu nbits w) = .ok i := by
  unfold decodeTableWord at h
  split at h
  case h_1 hdecode => cases h; exact hdecode
  case h_2 => cases h

theorem loadSilence_lt (s : State) : (loadSilence s).toNat + 1 < 2 ^ 32 := by
  unfold loadSilence
  split
  case isTrue => decide
  case isFalse hne =>
    have : s.cfgTSilence.toNat ≠ 2 ^ 32 - 1 := fun h => hne (BitVec.eq_of_toNat_eq (h.trans (by decide)))
    have := s.cfgTSilence.isLt
    omega

/-- The poll that `placeRequest` puts first ends the frame it puts into RX_BUF. -/
theorem placeRequest_frameEndsAt (p : List Byte) (s : State) :
    FrameEndsAt (placeRequest p s) (s.lastRxTime + loadSilence s + 1#32) s.inputs (requestFrame p s) where
  event := rfl
  mode := rfl
  nonempty := by simp [placeRequest]
  silence := by
    have hsilence : s.lastRxTime + loadSilence s + 1#32 - s.lastRxTime = loadSilence s + 1#32 := by
      rw [BitVec.add_assoc, BitVec.add_comm, BitVec.add_sub_cancel]
    have := loadSilence_lt s
    rw [SilenceExceeded, ← silence_toNat]
    change (loadSilence s).toNat < (s.lastRxTime + loadSilence s + 1#32 - s.lastRxTime).toNat
    rw [hsilence, BitVec.toNat_add]
    simp only [BitVec.toNat_ofNat]
    omega
  frame := Memory.slice_writeAll _ _ _

/-- Settles O5: the placed frame is ended by the placed poll, and its PDU is the table word's. -/
theorem placedTableWordRuns : Obligations.PlacedTableWordRuns := by
  intro s nbits w i hmask hmin hword
  refine ⟨_, rfl, step_requestFrame (placeRequest_frameEndsAt (loadPdu nbits w s) s) ?_ ?_⟩
  · have := four_le_tablePdu_length nbits w
    change s.params.minFrameLen < _
    rw [loadPdu_eq nbits w hmin]
    omega
  · change decode s.cfgFuncEn _ = _
    rw [loadPdu_eq nbits w hmin, hmask]
    exact decodeTableWord_eq_some hword

/-! ### Bytes that arrive one by one -/

theorem run_succ_eq_next {M : Host.Core} {s t : M.State} {k : Nat} (h : M.run (k + 1) s = .next t) :
    ∃ u, M.step s = .next u ∧ M.run k u = .next t := by
  rw [Host.Core.run] at h
  split at h
  case h_1 u hu => exact ⟨u, hu, h⟩
  case h_2 => cases h
  case h_3 => cases h

/-- A run, and one more step. -/
theorem run_succ_of_run {M : Host.Core} {u t : M.State} (hstep : M.step u = .next t) : ∀ {k : Nat} {s : M.State},
    M.run k s = .next u → M.run (k + 1) s = .next t
  | 0, _, h => by
    cases h
    exact run_succ_of_step hstep 0
  | k + 1, _, h => by
    obtain ⟨_, hs, hrun⟩ := run_succ_eq_next h
    exact (run_succ_of_step hs (k + 1)).trans (run_succ_of_run hstep hrun)

theorem Effect.txInFlight_eq_of_byte {b : Byte} {now : Time} {s t : State} (h : Effect (.byte b now) s t) :
    t.txInFlight = s.txInFlight := by
  cases h <;> rfl

/-- Reception hands nothing to the transmitter (R183, R195). -/
theorem txInFlight_of_run_bytes : ∀ (cs : List (Byte × Time)) {s t : State} {rest : List Event},
    s.inputs = byteEvents cs ++ rest → core.run cs.length s = .next t → t.txInFlight = s.txInFlight
  | [], _, _, _, _, h => by cases h; rfl
  | c :: cs, s, t, rest, hin, h => by
    obtain ⟨s', hs, hrun⟩ := run_succ_eq_next (M := core) h
    obtain ⟨hidle, _⟩ | ⟨e, rest', u, hin', hu, rfl⟩ := step_eq_next_iff.mp hs
    · cases hin.symm.trans hidle
    · obtain ⟨rfl, rfl⟩ := List.cons.inj (hin.symm.trans hin')
      exact (txInFlight_of_run_bytes cs (s := closeEvent _ u) hu.inputs_eq hrun).trans hu.txInFlight_eq_of_byte

/-! ### The answer does not depend on how the request came -/

@[simp] theorem afterInstr_dm (i : Instr) (s : State) :
    (afterInstr i s).dm = (dispatchWith DMState.model i s.dm).dm := rfl
@[simp] theorem afterInstr_txBuf (i : Instr) (s : State) :
    (afterInstr i s).txBuf = s.txBuf.writeAll 0 (instrFrame i s) := rfl
@[simp] theorem afterInstr_txLen (i : Instr) (s : State) : (afterInstr i s).txLen = (instrFrame i s).length := rfl
@[simp] theorem afterInstr_txInFlight (i : Instr) (s : State) :
    (afterInstr i s).txInFlight = s.txInFlight ++ [instrFrame i s] := rfl

/-- A response frame is made from the address, the byte order and the data model only. -/
theorem instrFrame_congr {s t : State} (i : Instr) (hparams : t.params = s.params)
    (haddr : t.cfgSlaveAddr = s.cfgSlaveAddr) (hdm : t.dm = s.dm) : instrFrame i t = instrFrame i s := by
  simp only [instrFrame, responseFrame, hparams, haddr, hdm]

/-- A burst that was received into an empty buffer, with a poll next after more silence than the threshold, is a frame that
this poll ends. -/
theorem frameEndsAt_of_received {s r : State} {bs : List (Byte × Time)} {now : Time} {rest : List Event}
    (hsame : SameBlock (received bs s) r) (hin : r.inputs = .poll now :: rest) (hmode : s.mode = .receiving)
    (hempty : s.rxLen = 0) (hne : bs ≠ [])
    (hsilence : ∀ last, bs.getLast? = some last →
      s.cfgTSilence.toNat < (now.toNat + (2 ^ 32 - last.2.toNat)) % 2 ^ 32) :
    FrameEndsAt r now rest (bs.map Prod.fst) := by
  have hlen : r.rxLen = bs.length := by simp [hsame.rxLen, received, hempty]
  have hlast := List.getLast?_eq_some_getLast hne
  have htime : r.lastRxTime = (bs.getLast hne).2 := by
    simp [hsame.lastRxTime, received, List.getLastD_eq_getLast?, List.getLast?_map, hlast]
  exact
    { event := hin
      mode := hsame.mode.trans hmode
      nonempty := hlen ▸ List.length_pos_iff.mpr hne
      silence := by
        rw [SilenceExceeded, htime, hsame.cfgTSilence]
        exact hsilence _ hlast
      frame := by
        rw [hsame.rxBuf, hlen, ← List.length_map (f := Prod.fst)]
        simp only [received, hempty, Memory.slice_writeAll] }

/-- Settles O32: the burst is held as the request's frame, the poll ends it, and the request's answer reads no field in
which the state then differs from the first one. -/
theorem sentRequestIsServed : Obligations.SentRequestIsServed := by
  intro s i bs now rest hinv hmode hempty hwf hframe hmin hfits hsilence hin
  obtain ⟨_, _, _, _, htxbuf⟩ := hinv.legal
  have hlen : bs.length = (encode i).length + 3 := by
    rw [← List.length_map (f := Prod.fst), hframe]
    simp
  have hne : bs ≠ [] := List.ne_nil_of_length_pos (by omega)
  obtain ⟨(r : State), hrun, hrest, hsame⟩ := run_burst bs hin hmode (by omega)
  have hinFlight : r.txInFlight = s.txInFlight := txInFlight_of_run_bytes bs hin hrun
  have hends : FrameEndsAt r now rest (requestFrame (encode i) r) := by
    have hbytes : bs.map Prod.fst = requestFrame (encode i) r := by
      rw [requestFrame, hsame.params, hsame.cfgSlaveAddr]
      exact hframe
    exact hbytes ▸ frameEndsAt_of_received hsame hrest hmode hempty hne hsilence
  have hexec (x : State) (hx : x.params = s.params) : exec i x = .next (afterInstr i x) :=
    exec_eq_next_iff.mpr ⟨instrFrame_fits i (hx ▸ htxbuf), rfl⟩
  have hstep := step_requestFrame hends (by rw [hsame.params, ← hlen]; exact hmin)
    (by rw [hsame.cfgFuncEn]; exact decodeOfEncodeIsTheInstruction _ _ hwf)
  rw [hexec (deliver rest r) hsame.params, andThen_next] at hstep
  have hresponse : instrFrame i (deliver rest r) = instrFrame i s :=
    instrFrame_congr i hsame.params hsame.cfgSlaveAddr hsame.dm
  have hdm : r.dm = s.dm := hsame.dm
  have htx : r.txBuf = s.txBuf := hsame.txBuf
  exact ⟨_, _, run_succ_of_run (M := core) hstep hrun, hexec s rfl, rfl, rfl, by simp [hdm], by simp [hresponse, htx],
    by simp [hresponse], by simp [hresponse, hinFlight], rfl⟩

end Sys2Proof.Machine
end

section
/-! PROOFS. The CRC unit as a device: what its two strobes do (R100, R101), its outputs (R104, R106), and the register along
any run of events (R102). -/

namespace Sys2Proof.Machine

/-! ### One strobe -/

/-- The eight iterations of R101, written out. -/
theorem crcStep_eq_shifts (r : Word) (b : Byte) : crcStep r b =
    crcShift (crcShift (crcShift (crcShift (crcShift (crcShift (crcShift (crcShift (r ^^^ b.setWidth 16)))))))) := rfl

/-- An event whose effect emits nothing and leaves the transmitter alone ends with no output. -/
theorem Effect.silent_closeEvent {e : Event} {rest : List Event} {s u : State} (h : Effect e (deliver rest s) u)
    (hout : u.out = []) (htx : u.txInFlight = s.txInFlight) : Silent s (closeEvent e u) e := by
  refine ⟨htx, rfl, observe u, ?_⟩
  rw [closeEvent_trace, h.trace_eq, deliver_trace, hout]

/-- Settles O6: each strobe is delivered, writes `CRC_REG` and is recorded. -/
theorem crcStrobesWriteOnlyTheCrcRegister : Obligations.CrcStrobesWriteOnlyTheCrcRegister := by
  constructor
  · intro s rest hin
    have hu : Effect .crcInit (deliver rest s) (eventCrcInit (deliver rest s)) := .crcInit
    exact ⟨_, step_of_handle hin hu.handle_eq, rfl, { SameBlock.refl _ with }, hu.silent_closeEvent rfl rfl⟩
  · intro s b rest hin
    have hu : Effect (.crcByte b) (deliver rest s) (eventCrcByte b (deliver rest s)) := .crcByte
    exact ⟨_, step_of_handle hin hu.handle_eq, crcStep_eq_shifts s.crcReg b, { SameBlock.refl _ with },
      hu.silent_closeEvent rfl rfl⟩

/-! ### The outputs -/

/-- Settles O9: a word's suffix is its two bytes by definition, and the status port widens the register. -/
theorem crcOutputsFollowTheRegister : Obligations.CrcOutputsFollowTheRegister := by
  intro s
  have hstatus : (regRead s 9).toNat = s.crcReg.toNat := BitVec.toNat_setWidth_of_le (by decide)
  have hwire (order : CrcOrder) (horder : s.params.crcWireOrder = order) : crcWireOut s = crcWire order s.crcReg := by
    rw [crcWireOut, horder]
  exact ⟨rfl, hstatus, hwire .lowFirst, hwire .highFirst, fun _ => ⟨rfl, rfl⟩⟩

/-! ### Many strobes, among other events -/

theorem crcBytesOf_cons (e : Event) (es : List Event) : crcBytesOf (e :: es) = crcBytesOf [e] ++ crcBytesOf es :=
  List.filterMap_append (l := [e])

/-- Any event but the init strobe and the reset folds its data byte, if it has one, into `CRC_REG`. -/
theorem Effect.crcReg_eq_foldl {e : Event} {s t : State} (h : Effect e s t) (hinit : e ≠ .crcInit) (hreset : e ≠ .reset) :
    t.crcReg = (crcBytesOf [e]).foldl crcStep s.crcReg := by
  cases h with
  | crcInit => exact absurd rfl hinit
  | reset => exact absurd rfl hreset
  | _ => rfl

/-- Under the invariant the next event has its effect, and the invariant holds after it. -/
theorem BlockInv.exists_step {s : State} (hinv : BlockInv s) {e : Event} {rest : List Event} (hin : s.inputs = e :: rest) :
    ∃ u, step s = .next (closeEvent e u) ∧ Effect e (deliver rest s) u ∧ BlockInv (closeEvent e u) := by
  have hdelivered : BlockInv (deliver rest s) := { hinv with }
  obtain ⟨u, hu⟩ := hdelivered.exists_effect e
  exact ⟨u, step_of_handle hin hu.handle_eq, hu, { hu.keeps_blockInv hdelivered with }⟩

/-- A run without init strobe and reset folds the data strobes' bytes into `CRC_REG`, in order. -/
theorem run_crcReg_eq_foldl (es : List Event) : ∀ {s : State} {rest : List Event}, BlockInv s → s.inputs = es ++ rest →
    (∀ e ∈ es, e ≠ .crcInit ∧ e ≠ .reset) →
    ∃ t, core.run es.length s = .next t ∧ t.inputs = rest ∧ t.crcReg = (crcBytesOf es).foldl crcStep s.crcReg := by
  induction es with
  | nil => exact fun _ hin _ => ⟨_, rfl, hin, rfl⟩
  | cons e es ih =>
    intro s rest hinv hin hes
    obtain ⟨⟨hinit, hreset⟩, hes⟩ := List.forall_mem_cons.mp hes
    obtain ⟨u, hstep, hu, hinv'⟩ := hinv.exists_step hin
    obtain ⟨t, hrun, hrest, hreg⟩ := ih hinv' hu.inputs_eq hes
    refine ⟨t, (run_succ_of_step (M := core) hstep es.length).trans hrun, hrest, ?_⟩
    rw [hreg, closeEvent_crcReg, hu.crcReg_eq_foldl hinit hreset, deliver_crcReg, crcBytesOf_cons e es, List.foldl_append]

/-- Settles O7: the init strobe loads 0xFFFF, and the run after it folds the bytes into that. -/
theorem crcUnitComputesCrc16 : Obligations.CrcUnitComputesCrc16 := by
  intro s es rest hinv hin hes
  obtain ⟨u, hstep, hu, hinv'⟩ := hinv.exists_step hin
  obtain ⟨t, hrun, hrest, hreg⟩ := run_crcReg_eq_foldl es hinv' hu.inputs_eq hes
  have hinit : u.crcReg = crcInitValue := by cases hu; rfl
  rw [closeEvent_crcReg, hinit] at hreg
  exact ⟨t, (run_succ_of_step (M := core) hstep es.length).trans hrun, hrest, hreg, rfl⟩

end Sys2Proof.Machine
end

section
/-! PROOFS. The CRC of a frame: its worked values (R103), the zero residue (R107) and the errors it finds (R108). -/

namespace Sys2Proof.Machine

/-- Settles O8, by evaluation. -/
theorem crcWorkedValues : Obligations.CrcWorkedValues := by
  unfold Obligations.CrcWorkedValues
  decide +kernel

/-! ### The check -/

/-- The check of two bytes behind a body compares them with the body's suffix (R105). -/
theorem crcOk_append_iff {order : CrcOrder} {d w : List Byte} (hw : w.length = 2) :
    crcOk order (d ++ w) = true ↔ w = crcWire order (crc16 d) := by
  simp [crcOk, hw]

/-- A sequence of at least two bytes is a body and two suffix bytes. -/
theorem eq_append_pair_of_two_le_length {f : List Byte} (h : 2 ≤ f.length) : ∃ d a b, f = d ++ [a, b] := by
  have hlen : (f.drop (f.length - 2)).length = 2 := by rw [List.length_drop]; omega
  obtain ⟨a, b, hab⟩ := List.length_eq_two.mp hlen
  exact ⟨f.take (f.length - 2), a, b, by rw [← hab, List.take_append_drop]⟩

/-! ### The zero residue -/

theorem hiByte_eq_loByte_shiftRight (r : Word) : hiByte r = loByte (r >>> 8) :=
  BitVec.eq_of_getLsbD_eq fun i hi => by simp [hiByte, loByte, hi]

/-- A register's own two bytes, the low one first, shift it out. -/
theorem crcStep_loByte_hiByte (r : Word) : crcStep (crcStep r (loByte r)) (hiByte r) = 0#16 := by
  rw [crcStep_loByte, hiByte_eq_loByte_shiftRight, crcStep_loByte, ← BitVec.shiftRight_add]
  exact BitVec.ushiftRight_eq_zero (by decide)

/-- Two bytes bring a register to zero exactly when they are its own: the register made of them reaches zero too, and the
steps are injective in the register. -/
theorem crcStep_crcStep_eq_zero_iff {r : Word} {a b : Byte} :
    crcStep (crcStep r a) b = 0#16 ↔ a = loByte r ∧ b = hiByte r := by
  constructor
  · intro h
    have hown : crcStep (crcStep (be16 b a) a) b = 0#16 := by simpa using crcStep_loByte_hiByte (be16 b a)
    have hr : r = be16 b a := foldl_crcStep_injective [a, b] (h.trans hown.symm)
    simp [hr]
  · rintro ⟨rfl, rfl⟩
    exact crcStep_loByte_hiByte r

/-- Under LOW_FIRST the check and the zero residue of the whole frame are the same (R107). -/
theorem crcOk_lowFirst_iff_crc16_eq_zero {f : List Byte} (h : 2 ≤ f.length) :
    crcOk .lowFirst f = true ↔ crc16 f = 0#16 := by
  obtain ⟨d, a, b, rfl⟩ := eq_append_pair_of_two_le_length h
  calc crcOk .lowFirst (d ++ [a, b]) = true
    _ ↔ [a, b] = crcWire .lowFirst (crc16 d) := crcOk_append_iff rfl
    _ ↔ a = loByte (crc16 d) ∧ b = hiByte (crc16 d) := by simp [crcWire]
    _ ↔ crcStep (crcStep (crc16 d) a) b = 0#16 := crcStep_crcStep_eq_zero_iff.symm
    _ ↔ crc16 (d ++ [a, b]) = 0#16 := by rw [crc16_append]; rfl

/-- Settles O10: the suffix passes the check, which under LOW_FIRST is the zero residue; `01 7E 80` has the zero residue and
fails the check under HIGH_FIRST. -/
theorem crcSuffixRoundTripAndResidue : Obligations.CrcSuffixRoundTripAndResidue := by
  refine ⟨crcOk_framed, fun d => ?_, fun _ => crcOk_lowFirst_iff_crc16_eq_zero, [0x01#8, 0x7E#8, 0x80#8], ?_⟩
  · exact (crcOk_lowFirst_iff_crc16_eq_zero (by simp)).mp (crcOk_framed .lowFirst d)
  · decide +kernel

/-! ### Single errors -/

/-- One changed byte changes what a fold leaves in the register. -/
theorem foldl_crcStep_set_injective {b v : Byte} : ∀ (p : List Byte) {i : Nat} {r : Word}, p[i]? = some b →
    (p.set i v).foldl crcStep r = p.foldl crcStep r → v = b
  | [], _, _, hb, _ => by simp at hb
  | c :: p, 0, _, hb, h => by
    cases hb
    exact crcStep_injective_byte _ (foldl_crcStep_injective p h)
  | _ :: p, _ + 1, _, hb, h => foldl_crcStep_set_injective p hb h

/-- A frame in which one byte is changed fails the check: a changed body has another CRC, and a changed suffix is not the
body's. -/
theorem crcOk_set_framed {order : CrcOrder} {d : List Byte} {i : Nat} {b v : Byte}
    (hb : (d ++ crcWire order (crc16 d))[i]? = some b) (hv : v ≠ b) :
    crcOk order ((d ++ crcWire order (crc16 d)).set i v) = false := by
  refine Bool.eq_false_iff.mpr fun hok => hv ?_
  by_cases hi : i < d.length
  · rw [List.getElem?_append_left hi] at hb
    rw [List.set_append_left _ _ hi, crcOk_append_iff (crcWire_length _ _)] at hok
    exact foldl_crcStep_set_injective d hb (crcWire_injective order hok).symm
  · have hle := Nat.le_of_not_lt hi
    rw [List.getElem?_append_right hle] at hb
    rw [List.set_append_right _ _ hle, crcOk_append_iff (by simp)] at hok
    have hset := List.getElem?_set_self (a := v) (List.getElem?_eq_some_iff.mp hb).1
    rw [hok, hb] at hset
    exact (Option.some.inj hset).symm

theorem xor_one_shiftLeft_ne (b : Byte) {k : Nat} (hk : k < 8) : b ^^^ (1#8 <<< k) ≠ b := by
  have hbit : ∀ k < 8, 1#8 <<< k ≠ 0#8 := by decide
  exact fun h => hbit k hk (by simpa using h)

/-- Settles O11: a flipped bit is one changed byte, and one changed byte fails the check. -/
theorem singleErrorsFailTheCrcCheck : Obligations.SingleErrorsFailTheCrcCheck := by
  intro order d i b hb
  exact ⟨fun k hk => crcOk_set_framed hb (xor_one_shiftLeft_ne b hk), fun v => crcOk_set_framed hb⟩

end Sys2Proof.Machine
end

section
/-! PROOFS. The dispatcher's answers (R120 to R132): which codes it knows, what every meaning leaves, and exceptions. -/

namespace Sys2Proof.Machine

/-! ### The enabled codes -/

/-- The codes and their mask bits as R121 lists them. -/
theorem enabled_iff {funcEn : BitVec 8} {fc : Byte} : enabled funcEn fc = true ↔
    (fc = 0x01#8 ∧ funcEn[0] = true) ∨ (fc = 0x02#8 ∧ funcEn[1] = true) ∨ (fc = 0x03#8 ∧ funcEn[2] = true) ∨
    (fc = 0x04#8 ∧ funcEn[3] = true) ∨ (fc = 0x05#8 ∧ funcEn[4] = true) ∨ (fc = 0x06#8 ∧ funcEn[5] = true) ∨
    (fc = 0x0F#8 ∧ funcEn[6] = true) ∨ (fc = 0x10#8 ∧ funcEn[7] = true) := by
  simp only [enabled, Bool.or_eq_true, Bool.and_eq_true, beq_iff_eq, or_assoc]
  rfl

/-- Settles O3: `enabled` is the disjunction, and each of its rows holds with every bit of the mask set. -/
theorem enabledCodesAreTheEight : Obligations.EnabledCodesAreTheEight := by
  refine ⟨fun _ _ => enabled_iff, fun fc => ⟨fun h => ?_, fun h => ?_⟩⟩
  · simpa only [List.mem_cons, List.not_mem_nil, or_false] using code_of_enabled h
  · have hall : ∀ c ∈ [0x01#8, 0x02#8, 0x03#8, 0x04#8, 0x05#8, 0x06#8, 0x0F#8, 0x10#8], enabled 0xFF#8 c = true := by
      decide
    exact hall fc h

/-! ### Every instruction -/

/-- Settles O33: every meaning is its dispatch and then the response, and a dispatch's PDU fits 252 bytes. -/
theorem everyInstructionOnlyRespondsAndCallsTheDataModel :
    Obligations.EveryInstructionOnlyRespondsAndCallsTheDataModel := by
  intro i s htx
  rw [exec_eq_respond]
  exact respond_responded (dispatchWith_short DMState.model i s.dm) htx

/-! ### Exceptions -/

@[simp] theorem issued_nil (s : State) : issued [] s.dm s = s := by simp [issued]

/-- After a response TX_BUF up to TX_LEN is the frame that was handed off. -/
theorem Responded.slice_txBuf {s t : State} {pdu : List Byte} {rs : List DMRequest} {d : DMState}
    (h : Responded s pdu rs d t) : t.txBuf.slice 0 t.txLen = .ok (responseFrame s pdu) := by
  rw [h.txLen, ← responseFrame_length s pdu]
  exact Memory.slice_of_read? _ 0 fun i hi => by
    rw [Nat.zero_add]
    exact h.txBytes i (by simpa using hi)

/-- An exception before any request is a response with the exception PDU (R128, R222), and 5 bytes of TX_BUF are enough. -/
theorem takeException_responded {s : State} (fc code : Byte) (h : 5 ≤ s.params.txbufSize) :
    ∃ t, takeException fc code s = .next t ∧ Responded s [fc ||| 0x80#8, code] [] s.dm t := by
  have hsent := sent_responded s [fc ||| 0x80#8, code] [] s.dm
  rw [issued_nil] at hsent
  exact ⟨_, takeException_eq fc code h, hsent⟩

/-- Settles O34: the frame that the response leaves in TX_BUF is the address, the two bytes and their CRC. -/
theorem takingAnExceptionSendsTheFiveByteFrame : Obligations.TakingAnExceptionSendsTheFiveByteFrame := by
  intro s fc code htx
  obtain ⟨t, ht, hresp⟩ := takeException_responded fc code htx
  have hslice := hresp.slice_txBuf
  rw [hresp.txLen] at hslice
  exact ⟨t, ht, hresp, hresp.txLen, hslice⟩

/-- The default arm is exception 1, and nothing before it (R127). -/
theorem exec_illegalFunction (fc : Byte) (payload : List Byte) (s : State) :
    exec (.illegalFunction fc payload) s = takeException fc 1#8 s :=
  congrArg (takeException fc 1#8) (issued_nil s)

/-- Settles O35: a code that is not enabled decodes to the default arm, which takes exception 1 with no request. -/
theorem illegalFunctionAnswersCodeOne : Obligations.IllegalFunctionAnswersCodeOne := by
  intro s fc payload hdisabled htx
  rw [exec_illegalFunction]
  exact ⟨decode_of_disabled hdisabled payload, takeException_responded fc 1#8 htx⟩

end Sys2Proof.Machine
end

section
/-! PROOFS. The read functions (R140, R141, R144, R145): the checks that FC1 to FC4 share, and the response of
each outcome. -/

namespace Sys2Proof.Machine

/-! ### The response of a dispatch -/

/-- `t` is `s` after the dispatch `r` of a request with the function code `fc` was answered (R190). -/
def Answered (s : State) (fc : Byte) (r : Dispatched DMState) (t : State) : Prop :=
  Responded s (responsePdu fc r) r.requests r.dm t

theorem exec_answered (i : Instr) {s : State} (htx : 255 ≤ s.params.txbufSize) :
    ∃ t, exec i s = .next t ∧ Answered s i.fc (dispatchWith DMState.model i s.dm) t :=
  everyInstructionOnlyRespondsAndCallsTheDataModel i s htx

section Answers
variable {s t : State} {fc : Byte} {d : DMState}

theorem answered_raised_iff {c : Byte} :
    Answered s fc (raised c d) t ↔ Responded s [fc ||| 0x80#8, c] [] d t := Iff.rfl

theorem answered_checked_iff {st : Status} {resp : List Byte} {rs : List DMRequest} :
    Answered s fc (checked st resp rs d) t ↔
      if st = 0#2 then Responded s resp rs d t else Responded s [fc ||| 0x80#8, st.setWidth 8] rs d t := by
  unfold checked
  split
  case isTrue hst => exact (iff_of_eq (if_pos hst)).symm
  case isFalse hst => exact (iff_of_eq (if_neg hst)).symm

/-! ### The checks before the request -/

theorem countOk_eq_false_iff {count : Word} {max : Nat} :
    countOk count max = false ↔ count.toNat < 1 ∨ max < count.toNat := by
  rw [← Bool.not_eq_true, countOk_iff]
  omega

theorem rangeOk_eq_false_iff {start count : Word} :
    rangeOk start count = false ↔ 0x10000 < start.toNat + count.toNat := by
  rw [← Bool.not_eq_true, rangeOk_iff]
  omega

/-- The checks of a read's full form in R122's order, count and then range, and then `r`. -/
def readChecks {σ : Type} (max : Nat) (start count : Word) (d : σ) (r : Dispatched σ) : Dispatched σ :=
  if countOk count max = false then raised illegalValueCode d
  else if rangeOk start count = false then raised illegalAddressCode d
  else r

theorem readBitsProc_full {σ : Type} (dm : DataModel σ) (sp : BitSpace) (fc : Byte) (start count : Word)
    (rest : List Byte) (d : σ) :
    readBitsProc dm sp fc (.full start count rest) d =
      readChecks maxReadBits start count d
        (checked (dm.readBits sp start count.toNat d).1.st
          (fc :: BitVec.ofNat 8 (ceil8 count.toNat) :: packBits (dm.readBits sp start count.toNat d).1.vals)
          [.rdBits sp start count.toNat] (dm.readBits sp start count.toNat d).2) := rfl

theorem readRegsProc_full {σ : Type} (dm : DataModel σ) (sp : RegSpace) (fc : Byte) (start count : Word)
    (rest : List Byte) (d : σ) :
    readRegsProc dm sp fc (.full start count rest) d =
      readChecks maxReadRegs start count d
        (checked (dm.readRegs sp start count.toNat d).1.st
          (fc :: BitVec.ofNat 8 (2 * count.toNat) :: packWords (dm.readRegs sp start count.toNat d).1.vals)
          [.rdRegs sp start count.toNat] (dm.readRegs sp start count.toNat d).2) := rfl

theorem answered_readChecks {max : Nat} {start count : Word} {r : Dispatched DMState}
    (h : Answered s fc (readChecks max start count d r) t) :
    if count.toNat < 1 ∨ max < count.toNat then Responded s [fc ||| 0x80#8, 3#8] [] d t
    else if 0x10000 < start.toNat + count.toNat then Responded s [fc ||| 0x80#8, 2#8] [] d t
    else Answered s fc r t := by
  unfold readChecks at h
  split
  case isTrue hcount => rwa [if_pos (countOk_eq_false_iff.mpr hcount)] at h
  case isFalse hcount =>
    rw [if_neg (mt countOk_eq_false_iff.mp hcount)] at h
    split
    case isTrue hrange => rwa [if_pos (rangeOk_eq_false_iff.mpr hrange)] at h
    case isFalse hrange => rwa [if_neg (mt rangeOk_eq_false_iff.mp hrange)] at h

/-! ### The four functions -/

/-- The rule of FC1 and FC2 (R140, R141) on the data model's answer. -/
theorem answered_readBitsProc {sp : BitSpace} {a : ReadArgs} :
    Answered s fc (readBitsProc DMState.model sp fc a s.dm) t →
    match a with
    | .short _ => Responded s [fc ||| 0x80#8, 3#8] [] s.dm t
    | .full start count _ =>
      if count.toNat < 1 ∨ 2000 < count.toNat then Responded s [fc ||| 0x80#8, 3#8] [] s.dm t
      else if 0x10000 < start.toNat + count.toNat then Responded s [fc ||| 0x80#8, 2#8] [] s.dm t
      else
        let r := s.dm.readBits sp start count.toNat
        if r.1.st = 0#2 then
          Responded s ([fc, BitVec.ofNat 8 ((count.toNat + 7) / 8)] ++ packBits r.1.vals)
            [.rdBits sp start count.toNat] r.2 t
        else Responded s [fc ||| 0x80#8, r.1.st.setWidth 8] [.rdBits sp start count.toNat] r.2 t := by
  intro h
  cases a with
  | short _ => exact answered_raised_iff.mp h
  | full start count rest =>
    rw [readBitsProc_full] at h
    have hchecks := answered_readChecks h
    rwa [answered_checked_iff] at hchecks

/-- The rule of FC3 and FC4 (R144, R145) on the data model's answer. -/
theorem answered_readRegsProc {sp : RegSpace} {a : ReadArgs} :
    Answered s fc (readRegsProc DMState.model sp fc a s.dm) t →
    match a with
    | .short _ => Responded s [fc ||| 0x80#8, 3#8] [] s.dm t
    | .full start count _ =>
      if count.toNat < 1 ∨ 125 < count.toNat then Responded s [fc ||| 0x80#8, 3#8] [] s.dm t
      else if 0x10000 < start.toNat + count.toNat then Responded s [fc ||| 0x80#8, 2#8] [] s.dm t
      else
        let r := s.dm.readRegs sp start count.toNat
        if r.1.st = 0#2 then
          Responded s ([fc, BitVec.ofNat 8 (2 * count.toNat)] ++ packWords r.1.vals)
            [.rdRegs sp start count.toNat] r.2 t
        else Responded s [fc ||| 0x80#8, r.1.st.setWidth 8] [.rdRegs sp start count.toNat] r.2 t := by
  intro h
  cases a with
  | short _ => exact answered_raised_iff.mp h
  | full start count rest =>
    rw [readRegsProc_full] at h
    have hchecks := answered_readChecks h
    rwa [answered_checked_iff] at hchecks

end Answers

/-- Settles O36: READ_COILS is the bits rule on the coils. -/
theorem readCoilsFollowsItsRule : Obligations.ReadCoilsFollowsItsRule := by
  intro s a htx
  obtain ⟨t, ht, hans⟩ := exec_answered (.readCoils a) htx
  exact ⟨t, ht, answered_readBitsProc (fc := 0x01#8) hans⟩

/-- Settles O37: READ_DISCRETE_INPUTS is the bits rule on the discrete inputs. -/
theorem readDiscreteInputsFollowsItsRule : Obligations.ReadDiscreteInputsFollowsItsRule := by
  intro s a htx
  obtain ⟨t, ht, hans⟩ := exec_answered (.readDiscreteInputs a) htx
  exact ⟨t, ht, answered_readBitsProc (fc := 0x02#8) hans⟩

/-- Settles O38: READ_HOLDING_REGISTERS is the registers rule on the holding registers. -/
theorem readHoldingRegistersFollowsItsRule : Obligations.ReadHoldingRegistersFollowsItsRule := by
  intro s a htx
  obtain ⟨t, ht, hans⟩ := exec_answered (.readHoldingRegisters a) htx
  exact ⟨t, ht, answered_readRegsProc (fc := 0x03#8) hans⟩

/-- Settles O39: READ_INPUT_REGISTERS is the registers rule on the input registers. -/
theorem readInputRegistersFollowsItsRule : Obligations.ReadInputRegistersFollowsItsRule := by
  intro s a htx
  obtain ⟨t, ht, hans⟩ := exec_answered (.readInputRegisters a) htx
  exact ⟨t, ht, answered_readRegsProc (fc := 0x04#8) hans⟩

end Sys2Proof.Machine
end

section
/-! PROOFS. Where packing puts each point and each word (R142, R146), in the terms in which FC15 and FC16 read
them back. -/

namespace Sys2Proof.Machine

/-! ### Points -/

theorem coilBit_of_getElem? {data : List Byte} {i : Nat} {v : Byte} (h : data[i / 8]? = some v) :
    coilBit data i = v.getLsbD (i % 8) := by
  rw [coilBit, List.getD_eq_getElem?_getD, h]
  rfl

/-- Packed points are read back as they were, and beyond the last one every bit is 0 (R142, R163). -/
theorem coilBit_packBits (bits : List Bool) (i : Nat) : coilBit (packBits bits) i = bits.getD i false := by
  by_cases hi : i < 8 * ceil8 bits.length
  · exact packBytes_getLsbD _ bits i hi
  · have hbyte : (packBits bits).length ≤ i / 8 := by rw [packBits_length]; omega
    have hpoint : bits.length ≤ i := by unfold ceil8 at hi; omega
    rw [coilBit, List.getD_eq_default _ _ hbyte, List.getD_eq_default _ _ hpoint]
    exact BitVec.getLsbD_zero

theorem div_lt_packBits_length {bits : List Bool} {i : Nat} (h : i < bits.length) : i / 8 < (packBits bits).length := by
  rw [packBits_length, ceil8]
  omega

/-- Settles O45: the bit at a place is what `coilBit` reads there, which is the point or 0. -/
theorem packBitsPlacesEveryPoint : Obligations.PackBitsPlacesEveryPoint := by
  refine fun bits => ⟨packBits_length bits, fun i b hb => ?_, fun i v hi hv => ?_⟩
  · obtain ⟨hlt, -⟩ := List.getElem?_eq_some_iff.mp hb
    have hv := List.getElem?_eq_getElem (div_lt_packBits_length hlt)
    refine ⟨_, hv, ?_⟩
    rw [← coilBit_of_getElem? hv, coilBit_packBits, List.getD_eq_getElem?_getD, hb]
    rfl
  · rw [← coilBit_of_getElem? hv, coilBit_packBits, List.getD_eq_default _ _ hi]

/-! ### Words -/

theorem getElem?_packWords : ∀ {ws : List Word} {i : Nat} {w : Word}, ws[i]? = some w →
    (packWords ws)[2 * i]? = some (hiByte w) ∧ (packWords ws)[2 * i + 1]? = some (loByte w)
  | _ :: _, 0, _, h => by cases h; exact ⟨rfl, rfl⟩
  | _ :: ws, _ + 1, _, h => getElem?_packWords (ws := ws) h

theorem regWord_packWords {ws : List Word} {i : Nat} {w : Word} (h : ws[i]? = some w) :
    regWord (packWords ws) i = w := by
  obtain ⟨hhi, hlo⟩ := getElem?_packWords h
  rw [regWord, List.getD_eq_getElem?_getD, List.getD_eq_getElem?_getD, hhi, hlo]
  exact be16_hiByte_loByte w

theorem regValues_packWords (ws : List Word) : regValues (packWords ws) ws.length = ws := by
  refine List.ext_getElem (regValues_length _ _) fun i _ hi => ?_
  simp only [regValues, List.getElem_map, List.getElem_range]
  exact regWord_packWords (List.getElem?_eq_getElem hi)

/-- Settles O47: each word's two bytes are at `2i` and `2i + 1`, and the two bytes make the word again. -/
theorem packWordsIsBigEndian : Obligations.PackWordsIsBigEndian := by
  refine fun ws => ⟨packWords_length ws, fun i w => getElem?_packWords, fun rest => ?_⟩
  rw [regValues_append (packWords_length ws).ge, regValues_packWords]

end Sys2Proof.Machine
end

section
/-! PROOFS. The loop of the multiple writes (R162, R164, R165): the data model's states along it, and how many writes come
before the first that fails. -/

namespace Sys2Proof.Machine

section Loop
variable {σ α : Type} (write : Word → α → σ → Status × σ) (start : Word)

/-- The data model's state after the first `j` writes at `start + i` and on, whatever their statuses. -/
def writeStates : Nat → List α → σ → Nat → σ
  | _, _, d, 0 => d
  | _, [], d, _ + 1 => d
  | i, v :: vs, d, j + 1 => writeStates (i + 1) vs (write (pointAddr start i) v d).2 j

/-- The number of writes before the first that fails: all of them where none fails. -/
def writesBeforeFailure : Nat → List α → σ → Nat
  | _, [], _ => 0
  | i, v :: vs, d =>
    if (write (pointAddr start i) v d).1 = stOk then
      writesBeforeFailure (i + 1) vs (write (pointAddr start i) v d).2 + 1
    else 0

@[simp] theorem writeStates_zero (i : Nat) (vs : List α) (d : σ) : writeStates write start i vs d 0 = d := by
  cases vs <;> rfl

@[simp] theorem writeStates_cons_succ (i : Nat) (v : α) (vs : List α) (d : σ) (j : Nat) :
    writeStates write start i (v :: vs) d (j + 1) =
      writeStates write start (i + 1) vs (write (pointAddr start i) v d).2 j := rfl

theorem writesBeforeFailure_cons_of_ok {i : Nat} {v : α} {d : σ} (h : (write (pointAddr start i) v d).1 = stOk)
    (vs : List α) : writesBeforeFailure write start i (v :: vs) d =
      writesBeforeFailure write start (i + 1) vs (write (pointAddr start i) v d).2 + 1 := if_pos h

theorem writesBeforeFailure_cons_of_fail {i : Nat} {v : α} {d : σ} (h : (write (pointAddr start i) v d).1 ≠ stOk)
    (vs : List α) : writesBeforeFailure write start i (v :: vs) d = 0 := if_neg h

theorem writesBeforeFailure_le_length : ∀ (i : Nat) (vs : List α) (d : σ),
    writesBeforeFailure write start i vs d ≤ vs.length
  | _, [], _ => Nat.le_refl 0
  | i, v :: vs, d => by
    unfold writesBeforeFailure
    split
    · exact Nat.succ_le_succ (writesBeforeFailure_le_length (i + 1) vs _)
    · exact Nat.zero_le _

/-- Each write before the first failure succeeds, in the state that the one before left. -/
theorem write_of_lt_writesBeforeFailure : ∀ {i : Nat} {vs : List α} {d : σ} {j : Nat} {v : α},
    j < writesBeforeFailure write start i vs d → vs[j]? = some v →
    write (pointAddr start (i + j)) v (writeStates write start i vs d j) =
      (stOk, writeStates write start i vs d (j + 1))
  | i, w :: vs, d, j, v, hj, hv => by
    by_cases hok : (write (pointAddr start i) w d).1 = stOk
    case neg =>
      rw [writesBeforeFailure_cons_of_fail write start hok] at hj
      exact absurd hj (Nat.not_lt_zero j)
    rw [writesBeforeFailure_cons_of_ok write start hok] at hj
    cases j with
    | zero =>
      cases hv
      simp only [writeStates_zero, writeStates_cons_succ, Nat.add_zero, ← hok]
    | succ j =>
      rw [← Nat.succ_add_eq_add_succ i j]
      exact write_of_lt_writesBeforeFailure (Nat.lt_of_succ_lt_succ hj) hv

variable (request : Word → α → DMRequest)

theorem writeLoop_cons_of_ok {i : Nat} {v : α} {d : σ} (h : (write (pointAddr start i) v d).1 = stOk) (vs : List α) :
    writeLoop write request start i (v :: vs) d =
      ((writeLoop write request start (i + 1) vs (write (pointAddr start i) v d).2).1,
        request (pointAddr start i) v ::
          (writeLoop write request start (i + 1) vs (write (pointAddr start i) v d).2).2.1,
        (writeLoop write request start (i + 1) vs (write (pointAddr start i) v d).2).2.2) := if_pos h

theorem writeLoop_cons_of_fail {i : Nat} {v : α} {d : σ} (h : (write (pointAddr start i) v d).1 ≠ stOk) (vs : List α) :
    writeLoop write request start i (v :: vs) d =
      ((write (pointAddr start i) v d).1, [request (pointAddr start i) v], (write (pointAddr start i) v d).2) := if_neg h

/-- The requests are those of the writes before the first failure and of the write that fails. -/
theorem writeLoop_requests : ∀ (i : Nat) (vs : List α) (d : σ), (writeLoop write request start i vs d).2.1 =
    (vs.take (writesBeforeFailure write start i vs d + 1)).mapIdx fun j v => request (pointAddr start (i + j)) v
  | _, [], _ => rfl
  | i, v :: vs, d => by
    by_cases hok : (write (pointAddr start i) v d).1 = stOk
    · rw [writeLoop_cons_of_ok write start request hok, writesBeforeFailure_cons_of_ok write start hok,
        List.take_succ_cons, List.mapIdx_cons, writeLoop_requests (i + 1)]
      simp only [Nat.add_zero, Nat.add_assoc, Nat.add_comm 1]
    · rw [writeLoop_cons_of_fail write start request hok, writesBeforeFailure_cons_of_fail write start hok]
      rfl

/-- Where no write fails the loop succeeds, in the state after the last write. -/
theorem writeLoop_of_no_failure : ∀ {i : Nat} {vs : List α} {d : σ},
    writesBeforeFailure write start i vs d = vs.length →
    (writeLoop write request start i vs d).1 = stOk ∧
      (writeLoop write request start i vs d).2.2 = writeStates write start i vs d vs.length
  | _, [], _, _ => ⟨rfl, rfl⟩
  | i, v :: vs, d, h => by
    by_cases hok : (write (pointAddr start i) v d).1 = stOk
    · rw [writesBeforeFailure_cons_of_ok write start hok] at h
      rw [writeLoop_cons_of_ok write start request hok]
      exact writeLoop_of_no_failure (Nat.succ.inj h)
    · rw [writesBeforeFailure_cons_of_fail write start hok] at h
      cases h

/-- The first write that fails gives the loop its status and its final state. -/
theorem writeLoop_of_failure : ∀ {i : Nat} {vs : List α} {d : σ} {v : α},
    vs[writesBeforeFailure write start i vs d]? = some v →
    (writeLoop write request start i vs d).1 ≠ stOk ∧
      write (pointAddr start (i + writesBeforeFailure write start i vs d)) v
          (writeStates write start i vs d (writesBeforeFailure write start i vs d)) =
        ((writeLoop write request start i vs d).1, (writeLoop write request start i vs d).2.2)
  | i, w :: vs, d, v, h => by
    by_cases hok : (write (pointAddr start i) w d).1 = stOk
    · rw [writesBeforeFailure_cons_of_ok write start hok] at h ⊢
      rw [writeLoop_cons_of_ok write start request hok, ← Nat.add_assoc, Nat.add_right_comm]
      exact writeLoop_of_failure h
    · rw [writesBeforeFailure_cons_of_fail write start hok] at h ⊢
      rw [writeLoop_cons_of_fail write start request hok]
      cases h
      exact ⟨hok, by rw [writeStates_zero, Nat.add_zero]⟩

end Loop

/-- Settles O44: the writes before the first failure are all of them, or the next one is the failure. -/
theorem writeLoopStopsAtTheFirstFailure : Obligations.WriteLoopStopsAtTheFirstFailure := by
  intro σ α write request start vs d
  have haddr (j : Nat) : BitVec.ofNat 16 (start.toNat + j) = pointAddr start (0 + j) := by rw [Nat.zero_add, pointAddr]
  have hle := writesBeforeFailure_le_length write start 0 vs d
  have hrequests := writeLoop_requests write start request 0 vs d
  simp only [haddr]
  refine ⟨_, writeStates write start 0 vs d, writeStates_zero write start 0 vs d, hle,
    fun j v => write_of_lt_writesBeforeFailure write start, ?_⟩
  obtain hall | hlt := Nat.eq_or_lt_of_le hle
  · obtain ⟨hst, hdm⟩ := writeLoop_of_no_failure write start request hall
    rw [hall, List.take_of_length_le (Nat.le_succ _)] at hrequests
    exact .inl ⟨hall, hst, by rw [hdm, hall], hrequests⟩
  · have hv := List.getElem?_eq_getElem hlt
    obtain ⟨hst, hwrite⟩ := writeLoop_of_failure write start request hv
    exact .inr ⟨_, hv, hst, hwrite, hrequests⟩

end Sys2Proof.Machine
end

section
/-! PROOFS. The write functions (R160 to R162, R164): the checks of FC5 and of FC15 and FC16, and the response of each
outcome. -/

namespace Sys2Proof.Machine

theorem writeCoilProc_of_illegal {σ : Type} (dm : DataModel σ) (fc : Byte) (addr : Word) {value : Word}
    (rest : List Byte) (d : σ) (hvalue : value ≠ coilOff ∧ value ≠ coilOn) :
    writeCoilProc dm fc (.full addr value rest) d = raised illegalValueCode d := if_pos hvalue

section Answers
variable {s t : State} {fc : Byte}

theorem answered_ite_iff {c : Prop} [Decidable c] {r r' : Dispatched DMState} :
    Answered s fc (if c then r else r') t ↔ if c then Answered s fc r t else Answered s fc r' t := by
  split
  · rfl
  · rfl

/-- The rule that FC15 and FC16 share (R162, R164): the checks in R122's order, and then the loop's status. -/
theorem answered_writeMultiProc_full_iff {α : Type} {write : Word → α → DMState → Status × DMState}
    {request : Word → α → DMRequest} {maxCount : Nat} {byteCount : Nat → Nat} {values : List Byte → Nat → List α}
    {start count : Word} {bc : Byte} {data : List Byte} :
    Answered s fc (writeMultiProc write request maxCount byteCount values fc (.full start count bc data) s.dm) t ↔
      if count.toNat < 1 ∨ maxCount < count.toNat then Responded s [fc ||| 0x80#8, 3#8] [] s.dm t
      else if bc.toNat ≠ byteCount count.toNat then Responded s [fc ||| 0x80#8, 3#8] [] s.dm t
      else if 6 + data.length < 6 + bc.toNat then Responded s [fc ||| 0x80#8, 3#8] [] s.dm t
      else if 0x10000 < start.toNat + count.toNat then Responded s [fc ||| 0x80#8, 2#8] [] s.dm t
      else
        let r := writeLoop write request start 0 (values data count.toNat) s.dm
        if r.1 = 0#2 then Responded s (echo fc start count) r.2.1 r.2.2 t
        else Responded s [fc ||| 0x80#8, r.1.setWidth 8] r.2.1 r.2.2 t := by
  simp only [writeMultiProc, answered_ite_iff, answered_raised_iff, answered_checked_iff, countOk_eq_false_iff,
    rangeOk_eq_false_iff, Nat.add_lt_add_iff_left]
  rfl

end Answers

/-- Settles O40: a value is refused before any request, or is the one bit that the data model receives. -/
theorem writeSingleCoilFollowsItsRule : Obligations.WriteSingleCoilFollowsItsRule := by
  intro s a htx
  obtain ⟨t, ht, hans⟩ := exec_answered (.writeSingleCoil a) htx
  change Answered s 0x05#8 (writeCoilProc DMState.model 0x05#8 a s.dm) t at hans
  refine ⟨t, ht, ?_⟩
  cases a with
  | short payload => exact answered_raised_iff.mp hans
  | full addr value rest =>
    by_cases hvalue : value = coilOff ∨ value = coilOn
    · rw [writeCoilProc_of_legal _ _ _ _ _ hvalue, beq_eq_decide] at hans
      exact (if_neg fun ⟨hoff, hon⟩ => hvalue.elim hoff hon).mpr (answered_checked_iff.mp hans)
    · rw [writeCoilProc_of_illegal _ _ _ _ _ (not_or.mp hvalue)] at hans
      exact (if_pos (not_or.mp hvalue)).mpr (answered_raised_iff.mp hans)

/-- Settles O41: every value of a full request goes to the data model. -/
theorem writeSingleRegisterFollowsItsRule : Obligations.WriteSingleRegisterFollowsItsRule := by
  intro s a htx
  obtain ⟨t, ht, hans⟩ := exec_answered (.writeSingleRegister a) htx
  refine ⟨t, ht, ?_⟩
  cases a with
  | short payload => exact answered_raised_iff (fc := 0x06#8).mp hans
  | full addr value rest => exact answered_checked_iff (fc := 0x06#8).mp hans

/-- Settles O42: the multiple-write rule with the coils' limit, byte count and values. -/
theorem writeMultipleCoilsFollowsItsRule : Obligations.WriteMultipleCoilsFollowsItsRule := by
  intro s a htx
  obtain ⟨t, ht, hans⟩ := exec_answered (.writeMultipleCoils a) htx
  refine ⟨t, ht, ?_⟩
  cases a with
  | short payload => exact answered_raised_iff (fc := 0x0F#8).mp hans
  | full start count bc data => exact answered_writeMultiProc_full_iff (fc := 0x0F#8).mp hans

/-- Settles O43: the multiple-write rule with the registers' limit, byte count and values. -/
theorem writeMultipleRegistersFollowsItsRule : Obligations.WriteMultipleRegistersFollowsItsRule := by
  intro s a htx
  obtain ⟨t, ht, hans⟩ := exec_answered (.writeMultipleRegisters a) htx
  refine ⟨t, ht, ?_⟩
  cases a with
  | short payload => exact answered_raised_iff (fc := 0x10#8).mp hans
  | full start count bc data => exact answered_writeMultiProc_full_iff (fc := 0x10#8).mp hans

end Sys2Proof.Machine
end

section
/-! PROOFS. The coil values of an FC15 request (R163): the order reads pack in, and the bits they depend on. -/

namespace Sys2Proof.Machine

theorem coilBit_eq_shifted (data : List Byte) (i : Nat) :
    coilBit data i = (((data.getD (i / 8) 0#8) >>> (i % 8)) &&& 1#8 == 1#8) := by
  rw [BitVec.and_one_eq_setWidth_ofBool_getLsbD, BitVec.getLsbD_ushiftRight, Nat.add_zero, coilBit]
  cases (data.getD (i / 8) 0#8).getLsbD (i % 8) with
  | false => rfl
  | true => rfl

theorem coilValues_packBits (bits : List Bool) : coilValues (packBits bits) bits.length = bits := by
  refine List.ext_getElem (coilValues_length _ _) fun i _ hi => ?_
  simp only [coilValues, List.getElem_map, List.getElem_range]
  rw [coilBit_packBits, List.getD_eq_getElem _ _ hi]

/-- Settles O46: the packed points are read back, bytes after them play no part, and each value is one bit. -/
theorem unpackedCoilsAreThePackedPoints : Obligations.UnpackedCoilsAreThePackedPoints := by
  refine ⟨coilBit_eq_shifted, fun bits rest => ?_, fun data data' count h => ?_⟩
  · rw [coilValues_append (packBits_length bits).ge, coilValues_packBits]
  · exact List.map_congr_left fun i hi => h i (List.mem_range.mp hi)

end Sys2Proof.Machine
end

section
/-! PROOFS. A single write that is repeated (R167) on the stored data model (log 16). -/

namespace Sys2Proof.Machine

/-! ### A store that is repeated -/

theorem Cells.put_put {α : Type} (a : Nat) (v : α) : ∀ m : List (Nat × α),
    Cells.put (Cells.put m a v) a v = Cells.put m a v
  | [] => by simp [Cells.put]
  | (k, w) :: m => by
    by_cases hlt : a < k
    · simp [Cells.put, hlt]
    · by_cases heq : a = k
      · simp [Cells.put, heq]
      · simp [Cells.put, hlt, heq, Cells.put_put a v m]

theorem Cells.erase_of_not_listed {α : Type} {a : Nat} : ∀ {m : List (Nat × α)}, Cells.get? m a = none →
    Cells.erase m a = m
  | [], _ => rfl
  | (k, w) :: m, h => by
    by_cases heq : k = a
    · simp [Cells.get?, heq] at h
    · simp only [Cells.get?, if_neg heq] at h
      simp only [Cells.erase, if_neg heq, Cells.erase_of_not_listed h]

section Space
variable {α : Type} [DecidableEq α] {z : α} {sp : DMSpace α}

theorem DMSpace.store_store (h : sp.wf z = true) (a : Nat) (v : α) :
    (sp.store z a v).store z a v = sp.store z a v := by
  simp only [DMSpace.wf, Bool.and_eq_true] at h
  obtain ⟨hrising, -⟩ := h
  unfold DMSpace.store
  by_cases hv : v = z
  · have hgone : Cells.get? (Cells.erase sp.cells a) a = none := by rw [Cells.get?_erase _ _ _ hrising, if_pos rfl]
    simp only [if_pos hv, Cells.erase_of_not_listed hgone]
  · simp only [if_neg hv, Cells.put_put]

theorem DMSpace.write_write (h : sp.wf z = true) (num : α → Nat) (a : Word) (v : α) :
    (sp.write z num a v).2.write z num a v = sp.write z num a v := by
  by_cases hst : sp.writeStatus a.toNat (num v) = stOk
  · have hagain : (sp.store z a.toNat v).writeStatus a.toNat (num v) = stOk := hst
    rw [DMSpace.write_of_accepted hst, DMSpace.write_of_accepted hagain, DMSpace.store_store h]
  · rw [DMSpace.write_of_refused rfl hst, DMSpace.write_of_refused rfl hst]

end Space

/-! ### A request that is repeated -/

theorem DMState.writeCoil_writeCoil {d : DMState} (hd : d.script = []) (hwf : d.wf = true) (a : Word) (v : Bool) :
    (d.writeCoil a v).2.writeCoil a v = d.writeCoil a v := by
  obtain ⟨hcoils, -⟩ := DMState.wf_spaces hwf
  simp only [DMState.writeCoil_of_no_script, hd, DMSpace.write_write hcoils]

theorem DMState.writeReg_writeReg {d : DMState} (hd : d.script = []) (hwf : d.wf = true) (a v : Word) :
    (d.writeReg a v).2.writeReg a v = d.writeReg a v := by
  obtain ⟨-, hregs⟩ := DMState.wf_spaces hwf
  simp only [DMState.writeReg_of_no_script, hd, DMSpace.write_write hregs]

/-! ### A dispatch that is repeated -/

theorem writeCoilProc_repeated {σ : Type} {dm : DataModel σ} {d : σ}
    (h : ∀ a v, dm.writeCoil a v (dm.writeCoil a v d).2 = dm.writeCoil a v d) (fc : Byte) (a : WriteArgs) :
    writeCoilProc dm fc a (writeCoilProc dm fc a d).dm = writeCoilProc dm fc a d := by
  cases a with
  | short payload => rfl
  | full addr value rest =>
    by_cases hvalue : value = coilOff ∨ value = coilOn
    · simp only [writeCoilProc_of_legal _ _ _ _ _ hvalue, checked_dm, h]
    · simp only [writeCoilProc_of_illegal _ _ _ _ _ (not_or.mp hvalue), raised_dm]

theorem writeRegProc_repeated {σ : Type} {dm : DataModel σ} {d : σ}
    (h : ∀ a v, dm.writeReg a v (dm.writeReg a v d).2 = dm.writeReg a v d) (fc : Byte) (a : WriteArgs) :
    writeRegProc dm fc a (writeRegProc dm fc a d).dm = writeRegProc dm fc a d := by
  cases a with
  | short payload => rfl
  | full addr value rest => simp only [writeRegProc, checked_dm, h]

/-- An instruction whose dispatch gives the same again in the data model that it left hands off the same frame again, and
leaves that data model. -/
theorem exec_repeated {i : Instr} {s : State} (htx : 255 ≤ s.params.txbufSize)
    (h : dispatchWith DMState.model i (dispatchWith DMState.model i s.dm).dm = dispatchWith DMState.model i s.dm) :
    ∃ t u q, exec i s = .next t ∧ exec i t = .next u ∧ u.dm = t.dm ∧
      t.txInFlight = s.txInFlight ++ [q] ∧ u.txInFlight = s.txInFlight ++ [q, q] := by
  obtain ⟨t, ht, hfirst⟩ := everyInstructionOnlyRespondsAndCallsTheDataModel i s htx
  obtain ⟨u, hu, hsecond⟩ := everyInstructionOnlyRespondsAndCallsTheDataModel i t (hfirst.params ▸ htx)
  rw [hfirst.dm, h] at hsecond
  refine ⟨t, u, _, ht, hu, hsecond.dm.trans hfirst.dm.symm, hfirst.txInFlight, ?_⟩
  rw [hsecond.txInFlight, hfirst.txInFlight, hfirst.params, hfirst.cfgSlaveAddr, List.append_assoc]
  rfl

/-- Settles O54: the repeated store changes nothing, so the repeated dispatch gives the same again. -/
theorem repeatedWriteIsIdempotent : Obligations.RepeatedWriteIsIdempotent := by
  rintro s a i htx hd hwf (rfl | rfl)
  · exact exec_repeated htx (writeRegProc_repeated (DMState.writeReg_writeReg hd hwf) 0x06#8 a)
  · exact exec_repeated htx (writeCoilProc_repeated (DMState.writeCoil_writeCoil hd hwf) 0x05#8 a)

end Sys2Proof.Machine
end

section
/-! PROOFS. The framer, event by event (R181 to R188, R196 to R199): which rule of `Effect` applies, and what it leaves as it
was. -/

namespace Sys2Proof.Machine

/-- A whole step on an event whose effect emits nothing and leaves the transmitter alone. -/
theorem exists_silent_step {s u r : State} {e : Event} {rest : List Event} (hin : s.inputs = e :: rest)
    (hu : Effect e (deliver rest s) u) (hsame : SameBlock r u) (hout : u.out = []) (htx : u.txInFlight = s.txInFlight) :
    ∃ t, step s = .next t ∧ SameBlock r t ∧ Silent s t e :=
  ⟨_, step_of_handle hin hu.handle_eq, { hsame with }, hu.silent_closeEvent hout htx⟩

/-! ### Bytes -/

/-- A step that stores the byte at index `n` of RX_BUF and puts the cursor after it. -/
theorem exists_step_storing_byte {s : State} {b : Byte} {now : Time} {rest : List Event} {n : Nat} {c : Cnt}
    (hin : s.inputs = .byte b now :: rest)
    (hu : Effect (.byte b now) (deliver rest s)
      { deliver rest s with rxBuf := s.rxBuf.write n b, rxLen := n + 1, lastRxTime := now, ovfCnt := c }) :
    ∃ t, step s = .next t ∧ t.lastRxTime = now ∧ Silent s t (.byte b now) ∧
      SameBlock { s with rxBuf := t.rxBuf, rxLen := t.rxLen, lastRxTime := t.lastRxTime, ovfCnt := t.ovfCnt } t ∧
      t.rxBuf.read? n = some b ∧ (∀ a, a ≠ n → t.rxBuf.read? a = s.rxBuf.read? a) ∧ t.rxLen = n + 1 ∧ t.ovfCnt = c :=
  ⟨_, step_of_handle hin hu.handle_eq, rfl, hu.silent_closeEvent rfl rfl, { SameBlock.refl _ with },
    Memory.read?_write_same _ _ _, fun _ ha => Memory.read?_write_other _ _ ha.symm, rfl, rfl⟩

/-- Settles O23: a full buffer is wrapped, and any other one has room. -/
theorem byteIsAppendedOrWraps : Obligations.ByteIsAppendedOrWraps := by
  intro s b now rest hin hmode hcap hle
  by_cases hfull : s.rxLen = s.params.bufSize
  · simp only [if_pos hfull]
    exact exists_step_storing_byte hin (.byteWrapped hmode hfull hcap)
  · simp only [if_neg hfull]
    exact exists_step_storing_byte hin (.byteAppended hmode (Nat.lt_of_le_of_ne hle hfull))

/-- Settles O24: in TRANSMITTING the byte's effect is the identity. -/
theorem byteIsLostWhileTransmitting : Obligations.ByteIsLostWhileTransmitting := by
  intro s b now rest hin hmode
  exact exists_silent_step hin (.byteLost hmode) { SameBlock.refl _ with } rfl rfl

/-! ### Completions and receive errors -/

/-- Settles O30: the status is not read, and the transmitter's list is no field of the block. -/
theorem completionEndsOnlyATransmission : Obligations.CompletionEndsOnlyATransmission := by
  intro s now st rest hin
  constructor
  · intro hmode
    have hu := Effect.txEnded (s := deliver rest s) (now := now) (st := st) hmode
    exact ⟨_, step_of_handle hin hu.handle_eq, { SameBlock.refl _ with }⟩
  · intro hmode
    have hu := Effect.txIgnored (s := deliver rest s) (now := now) (st := st) hmode
    exact ⟨_, step_of_handle hin hu.handle_eq, { SameBlock.refl _ with }⟩

/-- Settles O31, by the mode. -/
theorem receiveErrorDiscardsOnlyAPartialFrame : Obligations.ReceiveErrorDiscardsOnlyAPartialFrame := by
  intro s rest hin
  constructor
  · intro hmode
    exact exists_silent_step hin (.errorDiscards hmode) { SameBlock.refl _ with } rfl rfl
  · intro hmode
    exact exists_silent_step hin (.errorIgnored hmode) { SameBlock.refl _ with } rfl rfl

/-! ### A poll that ends no frame -/

theorem frameEnds_eq_false {now : Time} {s : State}
    (h : s.mode = .transmitting ∨ s.rxLen = 0 ∨ ¬SilenceExceeded now s) : frameEnds now s = false := by
  rw [Bool.eq_false_iff, Ne, frameEnds_iff]
  rintro ⟨hmode, hlen, hsilence⟩
  obtain htx | hempty | hshort := h
  · cases hmode.symm.trans htx
  · omega
  · exact hshort hsilence

/-- Settles O26: each of the three cases excludes the condition of a frame end, and then the poll's effect is the identity. -/
theorem pollWithoutAFrameEndDoesNothing : Obligations.PollWithoutAFrameEndDoesNothing := by
  intro s now rest hin hidle
  have hends : frameEnds now (deliver rest s) = false := frameEnds_eq_false hidle
  exact exists_silent_step hin (.pollIdle hends) { SameBlock.refl _ with } rfl rfl

/-! ### The gates -/

theorem lengthGate_iff {s : State} {f : List Byte} : lengthGate s f = true ↔ s.params.minFrameLen < f.length :=
  decide_eq_true_iff

theorem addressGate_iff {s : State} {f : List Byte} : addressGate s f = true ↔ f.head? = some s.cfgSlaveAddr :=
  beq_iff_eq

theorem FrameEndsAt.frameEnds_deliver {s : State} {now : Time} {rest : List Event} {f : List Byte}
    (h : FrameEndsAt s now rest f) : frameEnds now (deliver rest s) = true :=
  frameEnds_iff.mpr ⟨h.mode, h.nonempty, h.silence⟩

/-- Settles O27: a frame that fails a gate is dropped, and only at the third gate counted. -/
theorem gatesDropInOrder : Obligations.GatesDropInOrder := by
  intro s now rest f hframe
  have hends := hframe.frameEnds_deliver
  refine ⟨fun hshort => ?_, fun _ haddr => ?_, fun hlen haddr hcrc => ?_⟩
  · have hgate : lengthGate (deliver rest s) f = false := decide_eq_false (Nat.not_lt.mpr hshort)
    exact exists_silent_step hframe.event (.frameDropped hends hframe.frame (.inl hgate)) { SameBlock.refl _ with } rfl rfl
  · have hgate : addressGate (deliver rest s) f = false := beq_eq_false_iff_ne.mpr haddr
    exact exists_silent_step hframe.event (.frameDropped hends hframe.frame (.inr hgate)) { SameBlock.refl _ with } rfl rfl
  · exact exists_silent_step hframe.event
      (.crcDropped hends hframe.frame (lengthGate_iff.mpr hlen) (addressGate_iff.mpr haddr) hcrc)
      { SameBlock.refl _ with } rfl rfl

/-- Settles O28: the frame is the one the decoded request is sent in. -/
theorem acceptedFrameRunsItsRequest : Obligations.AcceptedFrameRunsItsRequest :=
  fun _ _ _ _ _ hframe hlen hdecode => step_requestFrame hframe hlen hdecode

end Sys2Proof.Machine
end

section
/-! PROOFS. One response per accepted frame (R202): the least and the greatest length of a response frame (R77), and the step
on a frame that passes the gates and on one that does not. -/

namespace Sys2Proof.Machine

/-! ### No response PDU is shorter than two bytes -/

section ResponseLength

variable {σ : Type}

theorem two_le_responsePdu_raised (fc c : Byte) (d : σ) : 2 ≤ (responsePdu fc (raised c d)).length := le_rfl

theorem two_le_responsePdu_checked (fc : Byte) (st : Status) {resp : List Byte} (rs : List DMRequest) (d : σ)
    (h : 2 ≤ resp.length) : 2 ≤ (responsePdu fc (checked st resp rs d)).length := by
  rw [responsePdu, checked_result]
  by_cases hst : st = stOk
  · rw [if_pos hst]
    exact h
  · rw [if_neg hst]
    exact le_rfl

theorem two_le_responsePdu_readBitsProc (dm : DataModel σ) (sp : BitSpace) (fc : Byte) (a : ReadArgs) (d : σ) :
    2 ≤ (responsePdu fc (readBitsProc dm sp fc a d)).length := by
  obtain ⟨c, hraised⟩ | ⟨start, count, rest, rfl, hcount, hrange⟩ := readBitsProc_raises_or_legal sp fc a
  · rw [hraised]
    exact two_le_responsePdu_raised fc c d
  · rw [readBitsProc_of_legal dm sp fc rest d hcount hrange]
    exact two_le_responsePdu_checked fc _ _ _ (by simp)

theorem two_le_responsePdu_readRegsProc (dm : DataModel σ) (sp : RegSpace) (fc : Byte) (a : ReadArgs) (d : σ) :
    2 ≤ (responsePdu fc (readRegsProc dm sp fc a d)).length := by
  obtain ⟨c, hraised⟩ | ⟨start, count, rest, rfl, hcount, hrange⟩ := readRegsProc_raises_or_legal sp fc a
  · rw [hraised]
    exact two_le_responsePdu_raised fc c d
  · rw [readRegsProc_of_legal dm sp fc rest d hcount hrange]
    exact two_le_responsePdu_checked fc _ _ _ (by simp)

theorem two_le_responsePdu_writeCoilProc (dm : DataModel σ) (fc : Byte) (a : WriteArgs) (d : σ) :
    2 ≤ (responsePdu fc (writeCoilProc dm fc a d)).length := by
  cases a with
  | short payload => exact two_le_responsePdu_raised fc _ d
  | full addr value rest =>
    by_cases hvalue : value = coilOff ∨ value = coilOn
    · rw [writeCoilProc_of_legal dm fc addr rest d hvalue]
      exact two_le_responsePdu_checked fc _ _ _ (by simp)
    · rw [writeCoilProc_of_illegal dm fc addr rest d (not_or.mp hvalue)]
      exact two_le_responsePdu_raised fc _ d

theorem two_le_responsePdu_writeRegProc (dm : DataModel σ) (fc : Byte) (a : WriteArgs) (d : σ) :
    2 ≤ (responsePdu fc (writeRegProc dm fc a d)).length := by
  cases a with
  | short payload => exact two_le_responsePdu_raised fc _ d
  | full addr value rest => exact two_le_responsePdu_checked fc _ _ _ (by simp)

theorem two_le_responsePdu_writeMultiProc {α : Type} (write : Word → α → σ → Status × σ) (request : Word → α → DMRequest)
    (maxCount : Nat) (byteCount : Nat → Nat) (values : List Byte → Nat → List α) (fc : Byte) (a : MultiArgs) (d : σ) :
    2 ≤ (responsePdu fc (writeMultiProc write request maxCount byteCount values fc a d)).length := by
  obtain ⟨c, hraised⟩ | ⟨start, count, bc, data, rfl, hcount, hbc, hdata, hrange⟩ :=
    writeMultiProc_raises_or_legal request maxCount byteCount values fc a
  · rw [hraised]
    exact two_le_responsePdu_raised fc c d
  · rw [writeMultiProc_of_legal write request values fc d hcount hbc hdata hrange]
    exact two_le_responsePdu_checked fc _ _ _ (by simp)

theorem two_le_responsePdu_dispatchWith (dm : DataModel σ) (i : Instr) (d : σ) :
    2 ≤ (responsePdu i.fc (dispatchWith dm i d)).length := by
  cases i with
  | readCoils a => exact two_le_responsePdu_readBitsProc dm _ _ a d
  | readDiscreteInputs a => exact two_le_responsePdu_readBitsProc dm _ _ a d
  | readHoldingRegisters a => exact two_le_responsePdu_readRegsProc dm _ _ a d
  | readInputRegisters a => exact two_le_responsePdu_readRegsProc dm _ _ a d
  | writeSingleCoil a => exact two_le_responsePdu_writeCoilProc dm _ a d
  | writeSingleRegister a => exact two_le_responsePdu_writeRegProc dm _ a d
  | writeMultipleCoils a => exact two_le_responsePdu_writeMultiProc _ _ _ _ _ _ a d
  | writeMultipleRegisters a => exact two_le_responsePdu_writeMultiProc _ _ _ _ _ _ a d
  | illegalFunction fc payload => exact two_le_responsePdu_raised fc _ d

end ResponseLength

theorem instrFrame_length_bounds (i : Instr) (s : State) :
    5 ≤ (instrFrame i s).length ∧ (instrFrame i s).length ≤ 255 := by
  have hleast := two_le_responsePdu_dispatchWith DMState.model i s.dm
  have hmost := responsePdu_length_le i.fc (dispatchWith_short DMState.model i s.dm)
  rw [instrFrame, responseFrame_length]
  omega

/-! ### The step on a frame end -/

/-- The frame `f` passes the three gates (R186 to R188). -/
abbrev Passes (s : State) (f : List Byte) : Prop :=
  s.params.minFrameLen < f.length ∧ f.head? = some s.cfgSlaveAddr ∧ crcOk s.params.crcWireOrder f = true

/-- A frame that passes the gates is answered with the response of its PDU's instruction. -/
theorem step_of_passes {s : State} {now : Time} {rest : List Event} {f : List Byte} (hinv : BlockInv s)
    (hframe : FrameEndsAt s now rest f) (hpass : Passes s f) :
    ∃ i, step s = .next (closeEvent (.poll now) (afterInstr i (deliver rest s))) := by
  obtain ⟨hmin, _, _, _, htx⟩ := hinv.legal
  obtain ⟨hlen, haddr, hcrc⟩ := hpass
  have hgate : lengthGate (deliver rest s) f = true := lengthGate_iff.mpr hlen
  obtain ⟨i, hi⟩ := decode_pduOf_of_lengthGate (s := deliver rest s) hmin hgate
  have hu : Effect (.poll now) (deliver rest s) (afterInstr i (deliver rest s)) :=
    .responded hframe.frameEnds_deliver hframe.frame hgate (addressGate_iff.mpr haddr) hcrc hi (instrFrame_fits i htx)
  exact ⟨i, step_of_handle hframe.event hu.handle_eq⟩

/-- A frame that fails a gate is dropped with no output, and at most `CRC_ERR_CNT` changes beside RX_LEN. -/
theorem step_of_not_passes {s : State} {now : Time} {rest : List Event} {f : List Byte}
    (hframe : FrameEndsAt s now rest f) (hfail : ¬Passes s f) :
    ∃ c t, step s = .next t ∧ SameBlock { s with rxLen := 0, crcErrCnt := c } t ∧ Silent s t (.poll now) := by
  obtain ⟨hlengthDrop, haddressDrop, hcrcDrop⟩ := gatesDropInOrder s now rest f hframe
  by_cases hlen : s.params.minFrameLen < f.length
  case neg => exact ⟨s.crcErrCnt, hlengthDrop (Nat.not_lt.mp hlen)⟩
  by_cases haddr : f.head? = some s.cfgSlaveAddr
  case neg => exact ⟨s.crcErrCnt, haddressDrop hlen haddr⟩
  have hcrc : crcOk s.params.crcWireOrder f = false := Bool.eq_false_iff.mpr fun h => hfail ⟨hlen, haddr, h⟩
  exact ⟨_, hcrcDrop hlen haddr hcrc⟩

/-- Settles O29: what an accepted frame's event emits is the dispatch's requests and the frame it leaves in TX_BUF. -/
theorem oneResponsePerAcceptedFrame : Obligations.OneResponsePerAcceptedFrame := by
  intro s now rest f hinv hframe
  by_cases hpass : Passes s f
  · obtain ⟨i, hstep⟩ := step_of_passes hinv hframe hpass
    obtain ⟨hleast, hmost⟩ := instrFrame_length_bounds i (deliver rest s)
    refine ⟨_, _, _, hstep, closeEvent_trace _ _, ?_⟩
    rw [if_pos hpass]
    exact ⟨rfl, _, instrFrame i (deliver rest s), rfl, hleast, hmost, Memory.slice_writeAll _ _ _⟩
  · obtain ⟨_, t, hstep, hsame, _, _, lv, htrace⟩ := step_of_not_passes hframe hpass
    refine ⟨t, [], lv, hstep, htrace, ?_⟩
    rw [if_neg hpass]
    exact ⟨rfl, hsame.mode.trans hframe.mode, hsame.dm⟩

end Sys2Proof.Machine
end
